-- ==== Sys2Proof/Word.lean ====
section
/-! DEFINITION. The words of the machine: all values are unsigned (spec/00_scope.md R7), so a value that software sees
is a plain bit vector of its width. -/

namespace Sys2Proof

/-- A register index or the count field of a draw: a 4-bit field of the instruction word (30_encoding.md R92). -/
abbrev Nibble := BitVec 4

/-- A general register, a timer, a memory cell (10_state.md R20). -/
abbrev Byte := BitVec 8

/-- The 12-bit address field `nnn` (30_encoding.md R92). -/
abbrev Addr12 := BitVec 12

/-- `I`, `pc`, a stack slot, an instruction word (10_state.md R20, 30_encoding.md R91). -/
abbrev Word := BitVec 16

/-- The number of memory bytes; addresses are 0..4095 (00_scope.md R5). -/
abbrev memSize : Nat := 4096

/-- The load address of a program and the reset value of `pc` (00_scope.md R5). -/
abbrev programBase : Nat := 512

/-- The longest program, 4096 - 512 bytes (70_reset_and_hazards.md R275). -/
abbrev maxProgram : Nat := 3584

end Sys2Proof
end

