-- ==== Sys2Proof/Syntax.lean ====
section
/-! DEFINITION. The instructions: one constructor per row of the opcode table (30_encoding.md R96), its operands the
fields of the word (R92, R93). The comment after a constructor is its row's pattern and mnemonic. -/

namespace Sys2Proof

/-- The 35 instructions of 30_encoding.md R96. `shr` and `shl` keep their ignored `y` field (R107), so that a word is
recovered from its instruction. -/
inductive Instr where
  | cls                                     -- 00E0  CLS
  | ret                                     -- 00EE  RET
  | sys (nnn : Addr12)                      -- 0NNN  SYS nnn
  | jp (nnn : Addr12)                       -- 1NNN  JP nnn
  | call (nnn : Addr12)                     -- 2NNN  CALL nnn
  | seImm (x : Nibble) (nn : Byte)          -- 3XNN  SE Vx, nn
  | sneImm (x : Nibble) (nn : Byte)         -- 4XNN  SNE Vx, nn
  | seReg (x y : Nibble)                    -- 5XY0  SE Vx, Vy
  | ldImm (x : Nibble) (nn : Byte)          -- 6XNN  LD Vx, nn
  | addImm (x : Nibble) (nn : Byte)         -- 7XNN  ADD Vx, nn
  | ldReg (x y : Nibble)                    -- 8XY0  LD Vx, Vy
  | orReg (x y : Nibble)                    -- 8XY1  OR Vx, Vy
  | andReg (x y : Nibble)                   -- 8XY2  AND Vx, Vy
  | xorReg (x y : Nibble)                   -- 8XY3  XOR Vx, Vy
  | addReg (x y : Nibble)                   -- 8XY4  ADD Vx, Vy
  | sub (x y : Nibble)                      -- 8XY5  SUB Vx, Vy
  | shr (x y : Nibble)                      -- 8XY6  SHR Vx
  | subn (x y : Nibble)                     -- 8XY7  SUBN Vx, Vy
  | shl (x y : Nibble)                      -- 8XYE  SHL Vx
  | sneReg (x y : Nibble)                   -- 9XY0  SNE Vx, Vy
  | ldI (nnn : Addr12)                      -- ANNN  LD I, nnn
  | jpV0 (nnn : Addr12)                     -- BNNN  JP V0, nnn
  | rnd (x : Nibble) (nn : Byte)            -- CXNN  RND Vx, nn
  | drw (x y n : Nibble)                    -- DXYN  DRW Vx, Vy, n
  | skp (x : Nibble)                        -- EX9E  SKP Vx
  | sknp (x : Nibble)                       -- EXA1  SKNP Vx
  | ldVxDt (x : Nibble)                     -- FX07  LD Vx, DT
  | ldVxK (x : Nibble)                      -- FX0A  LD Vx, K
  | ldDtVx (x : Nibble)                     -- FX15  LD DT, Vx
  | ldStVx (x : Nibble)                     -- FX18  LD ST, Vx
  | addI (x : Nibble)                       -- FX1E  ADD I, Vx
  | ldF (x : Nibble)                        -- FX29  LD F, Vx
  | ldB (x : Nibble)                        -- FX33  LD B, Vx
  | ldMemVx (x : Nibble)                    -- FX55  LD [I], Vx
  | ldVxMem (x : Nibble)                    -- FX65  LD Vx, [I]
  deriving DecidableEq, Repr

end Sys2Proof
end

