-- ==== Sys2Proof/WellFormed.lean ====
section
/-! DEFINITION. Which instructions are the reading of some word. The operand types carry every range but one:
the words 0x00E0 and 0x00EE are CLS and RET, never SYS (30_encoding.md R95, R105). -/

namespace Sys2Proof

/-- An instruction some word decodes to: any, but a `SYS` whose field is that of CLS or of RET (R105: the 0NNN space is
the 4094 words other than 0x00E0 and 0x00EE). -/
def Instr.wellFormed : Instr → Bool
  | .sys nnn => nnn != 0x0E0#12 && nnn != 0x0EE#12
  | _ => true

end Sys2Proof
end

