-- ==== Sys2Proof/Decode.lean ====
section
/-! DEFINITION. Decoding by the opcode table (30_encoding.md R92, R95, R96), total on every word and every list of bytes,
a refusal by name; after it the encoder, written from the formats of R93. -/

namespace Sys2Proof

/-- Why a decoder reads no instruction: `noRow` where the word matches no row of R96 (R104; the machine then raises
BadInstruction), `tooShort` where there are fewer than the two bytes every instruction has (R91). -/
inductive DecodeReject where
  | noRow (op : Word)
  | tooShort
  deriving DecidableEq, Repr

/-- Field `x`, bits 11:8 (R92). -/
def fieldX (op : Word) : Nibble := op.extractLsb' 8 4

/-- Field `y`, bits 7:4 (R92). -/
def fieldY (op : Word) : Nibble := op.extractLsb' 4 4

/-- Field `n`, bits 3:0 (R92). -/
def fieldN (op : Word) : Nibble := op.extractLsb' 0 4

/-- Field `nn`, bits 7:0 (R92). -/
def fieldNN (op : Word) : Byte := op.extractLsb' 0 8

/-- Field `nnn`, bits 11:0 (R92). -/
def fieldNNN (op : Word) : Addr12 := op.extractLsb' 0 12

/-- One row of the opcode table: `(op AND mask) = pattern` selects it (R95). -/
structure OpcodeRow where
  mask    : Word
  pattern : Word
  build   : Word → Instr

/-- Whether a word is of a row (R95). -/
def OpcodeRow.matches (r : OpcodeRow) (op : Word) : Bool := op &&& r.mask == r.pattern

/-- Rows 1 to 10 of R96. -/
def opcodeRows1 : List OpcodeRow :=
  [⟨0xFFFF, 0x00E0, fun _ => .cls⟩,
   ⟨0xFFFF, 0x00EE, fun _ => .ret⟩,
   ⟨0xF000, 0x0000, fun op => .sys (fieldNNN op)⟩,
   ⟨0xF000, 0x1000, fun op => .jp (fieldNNN op)⟩,
   ⟨0xF000, 0x2000, fun op => .call (fieldNNN op)⟩,
   ⟨0xF000, 0x3000, fun op => .seImm (fieldX op) (fieldNN op)⟩,
   ⟨0xF000, 0x4000, fun op => .sneImm (fieldX op) (fieldNN op)⟩,
   ⟨0xF00F, 0x5000, fun op => .seReg (fieldX op) (fieldY op)⟩,
   ⟨0xF000, 0x6000, fun op => .ldImm (fieldX op) (fieldNN op)⟩,
   ⟨0xF000, 0x7000, fun op => .addImm (fieldX op) (fieldNN op)⟩]

/-- Rows 11 to 20 of R96. -/
def opcodeRows2 : List OpcodeRow :=
  [⟨0xF00F, 0x8000, fun op => .ldReg (fieldX op) (fieldY op)⟩,
   ⟨0xF00F, 0x8001, fun op => .orReg (fieldX op) (fieldY op)⟩,
   ⟨0xF00F, 0x8002, fun op => .andReg (fieldX op) (fieldY op)⟩,
   ⟨0xF00F, 0x8003, fun op => .xorReg (fieldX op) (fieldY op)⟩,
   ⟨0xF00F, 0x8004, fun op => .addReg (fieldX op) (fieldY op)⟩,
   ⟨0xF00F, 0x8005, fun op => .sub (fieldX op) (fieldY op)⟩,
   ⟨0xF00F, 0x8006, fun op => .shr (fieldX op) (fieldY op)⟩,
   ⟨0xF00F, 0x8007, fun op => .subn (fieldX op) (fieldY op)⟩,
   ⟨0xF00F, 0x800E, fun op => .shl (fieldX op) (fieldY op)⟩,
   ⟨0xF00F, 0x9000, fun op => .sneReg (fieldX op) (fieldY op)⟩]

/-- Rows 21 to 35 of R96. -/
def opcodeRows3 : List OpcodeRow :=
  [⟨0xF000, 0xA000, fun op => .ldI (fieldNNN op)⟩,
   ⟨0xF000, 0xB000, fun op => .jpV0 (fieldNNN op)⟩,
   ⟨0xF000, 0xC000, fun op => .rnd (fieldX op) (fieldNN op)⟩,
   ⟨0xF000, 0xD000, fun op => .drw (fieldX op) (fieldY op) (fieldN op)⟩,
   ⟨0xF0FF, 0xE09E, fun op => .skp (fieldX op)⟩,
   ⟨0xF0FF, 0xE0A1, fun op => .sknp (fieldX op)⟩,
   ⟨0xF0FF, 0xF007, fun op => .ldVxDt (fieldX op)⟩,
   ⟨0xF0FF, 0xF00A, fun op => .ldVxK (fieldX op)⟩,
   ⟨0xF0FF, 0xF015, fun op => .ldDtVx (fieldX op)⟩,
   ⟨0xF0FF, 0xF018, fun op => .ldStVx (fieldX op)⟩,
   ⟨0xF0FF, 0xF01E, fun op => .addI (fieldX op)⟩,
   ⟨0xF0FF, 0xF029, fun op => .ldF (fieldX op)⟩,
   ⟨0xF0FF, 0xF033, fun op => .ldB (fieldX op)⟩,
   ⟨0xF0FF, 0xF055, fun op => .ldMemVx (fieldX op)⟩,
   ⟨0xF0FF, 0xF065, fun op => .ldVxMem (fieldX op)⟩]

/-- The opcode table, 35 rows in the order of R96. -/
def opcodeTable : List OpcodeRow := opcodeRows1 ++ opcodeRows2 ++ opcodeRows3

/-- `Decode(op)` (R95): the first row that the word matches, or the refusal of R104. -/
def decodeWord (op : Word) : Except DecodeReject Instr :=
  match opcodeTable.find? (fun r => r.matches op) with
  | some r => .ok (r.build op)
  | none => .error (.noRow op)

/-- The instruction word of two bytes, the byte at the lower address in bits 15:8 (20_memory.md R64). -/
def wordOfBytes (hi lo : Byte) : Word := hi ++ lo

/-- Decoding from the head of a list of bytes, with the bytes that remain (R91: every instruction is two bytes). -/
def decodeBytes : List Byte → Except DecodeReject (Instr × List Byte)
  | hi :: lo :: rest =>
    match decodeWord (wordOfBytes hi lo) with
    | .ok i => .ok (i, rest)
    | .error e => .error e
  | _ => .error .tooShort

/-- Format `A` of R93: `tttt nnnn nnnn nnnn`. -/
def encodeA (t : Nibble) (nnn : Addr12) : Word := t ++ nnn

/-- Format `XI` of R93: `tttt xxxx kkkk kkkk`. Format `XS` is the same with a sub-opcode byte. -/
def encodeXI (t x : Nibble) (nn : Byte) : Word := t ++ x ++ nn

/-- Formats `XY` and `XYN` of R93: `tttt xxxx yyyy ssss`, `ssss` the sub-opcode or the count. -/
def encodeXYN (t x y s : Nibble) : Word := t ++ x ++ y ++ s

/-- The word of an instruction, from the formats of R93 and the patterns of R96. -/
def encode : Instr → Word
  | .cls => encodeA 0x0 0x0E0
  | .ret => encodeA 0x0 0x0EE
  | .sys nnn => encodeA 0x0 nnn
  | .jp nnn => encodeA 0x1 nnn
  | .call nnn => encodeA 0x2 nnn
  | .seImm x nn => encodeXI 0x3 x nn
  | .sneImm x nn => encodeXI 0x4 x nn
  | .seReg x y => encodeXYN 0x5 x y 0x0
  | .ldImm x nn => encodeXI 0x6 x nn
  | .addImm x nn => encodeXI 0x7 x nn
  | .ldReg x y => encodeXYN 0x8 x y 0x0
  | .orReg x y => encodeXYN 0x8 x y 0x1
  | .andReg x y => encodeXYN 0x8 x y 0x2
  | .xorReg x y => encodeXYN 0x8 x y 0x3
  | .addReg x y => encodeXYN 0x8 x y 0x4
  | .sub x y => encodeXYN 0x8 x y 0x5
  | .shr x y => encodeXYN 0x8 x y 0x6
  | .subn x y => encodeXYN 0x8 x y 0x7
  | .shl x y => encodeXYN 0x8 x y 0xE
  | .sneReg x y => encodeXYN 0x9 x y 0x0
  | .ldI nnn => encodeA 0xA nnn
  | .jpV0 nnn => encodeA 0xB nnn
  | .rnd x nn => encodeXI 0xC x nn
  | .drw x y n => encodeXYN 0xD x y n
  | .skp x => encodeXI 0xE x 0x9E
  | .sknp x => encodeXI 0xE x 0xA1
  | .ldVxDt x => encodeXI 0xF x 0x07
  | .ldVxK x => encodeXI 0xF x 0x0A
  | .ldDtVx x => encodeXI 0xF x 0x15
  | .ldStVx x => encodeXI 0xF x 0x18
  | .addI x => encodeXI 0xF x 0x1E
  | .ldF x => encodeXI 0xF x 0x29
  | .ldB x => encodeXI 0xF x 0x33
  | .ldMemVx x => encodeXI 0xF x 0x55
  | .ldVxMem x => encodeXI 0xF x 0x65

/-- The two bytes of a word as memory holds them: the high byte at the lower address (20_memory.md R64). -/
def bytesOfWord (op : Word) : List Byte := [op.extractLsb' 8 8, op.extractLsb' 0 8]

/-- The bytes of an instruction. -/
def encodeBytes (i : Instr) : List Byte := bytesOfWord (encode i)

/-- The word whose bits are `w`, numbered as spec/opcode_table.json numbers them (bit 0 the least significant bit of the
one 16-bit word), `nbits` of them given and those above 0. -/
def tableWord (nbits w : Nat) : Word := BitVec.ofNat 16 (w % 2 ^ nbits)

/-- What the decoder reads from an instruction whose bits are `w`: the word is laid out big-endian, as the hardware
stores it, and its bytes are decoded. -/
def decodeTableWord (nbits w : Nat) : Option Instr :=
  match decodeBytes (bytesOfWord (tableWord nbits w)) with
  | .ok (i, _) => some i
  | .error _ => none

end Sys2Proof
end

