-- ==== Sys2Proof/Config.lean ====
section
/-! DEFINITION. What an implementation fixes (the four named parameters of 00_scope.md R6) and the one free value
(the random byte of 41_load_alu.md R160). The parameters' default values are in Machine/Defaults.lean. -/

namespace Sys2Proof

/-- `SYS_POLICY` (00_scope.md R6): what the 0NNN words other than 00E0 and 00EE do. -/
inductive SysPolicy where
  | fault
  | nop
  deriving DecidableEq, Repr

/-- The named parameters of 00_scope.md R6. `fontBase` is `FONT_BASE`, with `FONT_BASE + 80 ≤ 512` by its type;
`fontRom` is `FONT_ROM`, any 80 bytes; `ips` is read by no rule (timing only). The parameters are held in the machine's
state, where no instruction and no transaction changes them, so that a statement about every state is a statement about
every choice of them (assumption log 1). -/
structure Config where
  fontBase  : Fin 433
  fontRom   : Vector Byte 80
  sysPolicy : SysPolicy
  ips       : Option Nat
  deriving DecidableEq, Repr

/-- The byte that `draw8()` gives at its k-th use (00_scope.md R9, 41_load_alu.md R160): FREE, any value 0..255; no body,
so nothing can be proved of any of its values (assumption log 3). -/
opaque Config.draw8 : Nat → Byte

end Sys2Proof
end

