-- ==== Sys2Proof/Machine/Defaults.lean ====
section
/-! DEFINITION. The default values of the named parameters (00_scope.md R6), which State.reset takes (assumption log 1). -/

namespace Sys2Proof.Machine

/-- The default `FONT_BASE`, 0x000 (R6, 92_eei_decisions.md D5). -/
def defaultFontBase : Fin 433 := 0

/-- The default `FONT_ROM`: the glyphs 0..F, five bytes each (10_state.md R36, D6). -/
def defaultFontRom : Vector Byte 80 :=
  #v[0xF0, 0x90, 0x90, 0x90, 0xF0,   0x20, 0x60, 0x20, 0x20, 0x70,
     0xF0, 0x10, 0xF0, 0x80, 0xF0,   0xF0, 0x10, 0xF0, 0x10, 0xF0,
     0x90, 0x90, 0xF0, 0x10, 0x10,   0xF0, 0x80, 0xF0, 0x10, 0xF0,
     0xF0, 0x80, 0xF0, 0x90, 0xF0,   0xF0, 0x10, 0x20, 0x40, 0x40,
     0xF0, 0x90, 0xF0, 0x90, 0xF0,   0xF0, 0x90, 0xF0, 0x10, 0xF0,
     0xF0, 0x90, 0xF0, 0x90, 0x90,   0xE0, 0x90, 0xE0, 0x90, 0xE0,
     0xF0, 0x80, 0x80, 0x80, 0xF0,   0xE0, 0x90, 0x90, 0x90, 0xE0,
     0xF0, 0x80, 0xF0, 0x80, 0xF0,   0xF0, 0x80, 0xF0, 0x80, 0x80]

/-- The default `SYS_POLICY`, `fault` (R6, D4). -/
def defaultSysPolicy : SysPolicy := .fault

/-- The default parameters; `IPS` has none and is read by no rule (R6, D27). -/
def defaultConfig : Config :=
  { fontBase := defaultFontBase, fontRom := defaultFontRom, sysPolicy := defaultSysPolicy, ips := none }

end Sys2Proof.Machine
end

