-- ==== Sys2Proof/Machine/State.lean ====
section
/-! DEFINITION. The machine's state as plain data: every piece of state of 10_state.md R20, the parameters, and the
model's own three fields; the state after reset (R39). -/

namespace Sys2Proof.Machine

/-- Memory: the cells whose byte differs from the reset contents, addresses strictly rising. Which byte an unlisted
address reads as is said in Machine/Ops.lean (`Memory.resetByte`), and the form by `Memory.wf` there. -/
abbrev Memory := List Host.Cell

/-- The framebuffer: `fb[y][x]`, row `y` 0..31 from the top, column `x` 0..63 from the left, true = on (10_state.md R33). -/
abbrev Framebuffer := Vector (Vector Bool 64) 32

/-- The four kinds of fault the block raises (60_exceptions.md R230). -/
inductive FaultKind where
  | addressOutOfRange
  | stackPointerOutOfRange
  | badArgument
  | badInstruction
  deriving DecidableEq, Repr

/-- The wait-for-key state (10_state.md R37): `key x` from the FX0A with field `x` until the next key-down transition. -/
inductive Wait where
  | idle
  | key (x : Nibble)
  deriving DecidableEq, Repr

/-- The six atomic transactions, the only ways the block changes state (00_scope.md R11). -/
inductive Transaction where
  | reset
  | load (bytes : List Byte)
  | step
  | tick
  | keyEvent (k : Nibble) (down : Bool)
  | present
  deriving DecidableEq, Repr

/-- The state of the block (10_state.md R20), then the parameters of 00_scope.md R6, then the MODEL'S OWN fields: `draws`
counts the random bytes used (assumption log 3), `loadOpen` says whether R274 defines a `Load` here (log 4), `pending`
lists the transactions the environment issues next, a `Step` where it lists none (log 2). -/
structure State where
  v        : Vector Byte 16
  i        : Word
  pc       : Word
  sp       : Fin 17
  stack    : Vector Word 16
  dt       : Byte
  st       : Byte
  mem      : Memory
  fb       : Framebuffer
  dirty    : Bool
  keys     : Vector Bool 16
  wait     : Wait
  fault    : Option FaultKind
  halted   : Bool
  cfg      : Config
  draws    : Nat
  loadOpen : Bool
  pending  : List Transaction
  deriving DecidableEq, Repr

/-- Why a step has no next state. -/
inductive Fault where
  /-- Raised by the transaction `Load` (Machine/Environment.lean) issued where 70_reset_and_hazards.md R274 gives it no
  step: after a `Step`, or a second time since `Reset` (93_implementation_defined.md U19 "stuck"). SAFE: the machine
  stops where the environment "must not issue it" (assumption log 4). No instruction raises it. -/
  | lateLoad
  deriving DecidableEq, Repr

/-- Why an instruction has no meaning. -/
inductive Refusal where
  /-- Raised by an arm of exec for an instruction the model does not give a meaning yet, named by its mnemonic. SAFE: the
  machine stops. No arm raises it now: every instruction has its meaning. -/
  | notModelled (mnemonic : String)
  deriving DecidableEq, Repr

/-- What a step or a meaning answers. -/
abbrev Result := Host.Outcome State Fault Refusal

/-- The state right after `Reset` (10_state.md R39, 70_reset_and_hazards.md R270) with the default parameters. Memory lists
nothing: every address reads as its reset contents. -/
def State.reset : State where
  v        := Vector.replicate 16 0
  i        := 0
  pc       := BitVec.ofNat 16 programBase
  sp       := 0
  stack    := Vector.replicate 16 0
  dt       := 0
  st       := 0
  mem      := []
  fb       := Vector.replicate 32 (Vector.replicate 64 false)
  dirty    := false
  keys     := Vector.replicate 16 false
  wait     := .idle
  fault    := none
  halted   := false
  cfg      := defaultConfig
  draws    := 0
  loadOpen := true
  pending  := []

end Sys2Proof.Machine
end

