-- ==== Sys2Proof/Machine/Ops.lean ====
section
/-! DEFINITION. The named operations over the program counter, memory and the stack, and taking a fault. Every
multi-byte access checks all its addresses before it moves a byte (92_eei_decisions.md D17). -/

namespace Sys2Proof.Machine

/-! ### The program counter -/

/-- `pc <- a`. -/
def State.goto (s : State) (a : Word) : State := { s with pc := a }

/-- The advance past the instruction's own word (10_state.md R27): `pc = P` becomes `P + 2`. -/
def State.advance (s : State) : State := s.goto (s.pc + 2)

/-- The advance, and a further 2 where the skip is taken (R27, 40_flow.md R124): `P + 4` or `P + 2`. -/
def State.skipIf (s : State) (taken : Bool) : State := if taken then s.advance.advance else s.advance

/-! ### Taking a fault -/

/-- The fault latch (60_exceptions.md R237): the kind is recorded and the machine is halted; nothing else changes. -/
def State.latch (s : State) (k : FaultKind) : State := { s with fault := some k, halted := true }

/-- TAKING A FAULT, the machine's one exception mechanism (60_exceptions.md R236, R237, R241), applied to the state before
the instruction: every piece of state keeps its value, `pc` (still the faulting instruction's address) included, but
`fault` and `halted`. No status is saved and no handler is entered. There is no return from a fault (R242): only the
transaction `Reset` leaves the halted state. It is a NEXT state (assumption log 5). -/
def raise (k : FaultKind) (s : State) : Result := .next (s.latch k)

/-- An operation that may fail with kind `k`: its value is used by `f`, or the fault is taken at `s`. -/
def orRaise {α : Type} (k : FaultKind) (s : State) (r : Option α) (f : α → Result) : Result :=
  match r with
  | none => raise k s
  | some a => f a

/-! ### Memory -/

/-- What an address that memory does not list reads as: its contents after `Reset` (10_state.md R36, R39), the font byte
in the font's range and 0 elsewhere (assumption log 33). -/
def Memory.resetByte (c : Config) (a : Nat) : Byte :=
  if h : c.fontBase.val ≤ a ∧ a < c.fontBase.val + 80 then
    c.fontRom[a - c.fontBase.val]'(by omega)
  else 0

/-- The byte at an address. -/
def Memory.read (c : Config) : Memory → Nat → Byte
  | [], a => Memory.resetByte c a
  | cell :: rest, a => if a = cell.1 then cell.2 else Memory.read c rest a

/-- Memory without the cell of an address: that address reads as its reset contents. -/
def Memory.erase (m : Memory) (a : Nat) : Memory := m.filter fun cell => cell.1 != a

/-- A cell put before the first one of a greater address. -/
def Memory.insert : Memory → Nat → Byte → Memory
  | [], a, b => [(a, b)]
  | cell :: rest, a, b => if a < cell.1 then (a, b) :: cell :: rest else cell :: Memory.insert rest a b

/-- A byte written, the list kept in its canonical form: the address is listed only where its byte differs from what the
unlisted address reads as. -/
def Memory.write (c : Config) (m : Memory) (a : Nat) (b : Byte) : Memory :=
  if b = Memory.resetByte c a then m.erase a else (m.erase a).insert a b

/-- The canonical form: addresses strictly rising and inside the 4096 bytes, no cell equal to what its address reads as
when unlisted. -/
abbrev Memory.wf (c : Config) (m : Memory) : Prop :=
  m.Pairwise (fun p q => p.1 < q.1) ∧ ∀ p ∈ m, p.1 < memSize ∧ p.2 ≠ Memory.resetByte c p.1

/-- Bytes written at ascending addresses from `a`. -/
def Memory.writeAll (c : Config) : Memory → Nat → List Byte → Memory
  | m, _, [] => m
  | m, a, b :: rest => Memory.writeAll c (Memory.write c m a b) (a + 1) rest

/-- `MemRead(a, 1)` (00_scope.md R9, 20_memory.md R62): nothing (AddressOutOfRange) where `a > 4095`, never reduced. -/
def State.memRead (s : State) (a : Nat) : Option Byte :=
  if a < memSize then some (Memory.read s.cfg s.mem a) else none

/-- `MemWrite(a, 1, b)` (00_scope.md R9, 20_memory.md R62). -/
def State.memWrite (s : State) (a : Nat) (b : Byte) : Option State :=
  if a < memSize then some { s with mem := Memory.write s.cfg s.mem a b } else none

/-- The `n` bytes at ascending addresses from `a`, each read through the bounds check; nothing where one of the addresses
exceeds 4095 (42_index_memory.md R175, R176, 44_display.md R198). No address is formed where `n = 0`. -/
def State.loadBlock (s : State) : Nat → Nat → Option (List Byte)
  | _, 0 => some []
  | a, n + 1 =>
    match s.memRead a, State.loadBlock s (a + 1) n with
    | some b, some bs => some (b :: bs)
    | _, _ => none

/-- The bytes stored at ascending addresses from `a`, each written through the bounds check; nothing at all where one of
the addresses exceeds 4095, for the caller then takes the fault at the state it began with (42_index_memory.md R173, R174). -/
def State.storeBlock : State → Nat → List Byte → Option State
  | s, _, [] => some s
  | s, a, b :: rest =>
    match s.memWrite a b with
    | some t => State.storeBlock t (a + 1) rest
    | none => none

/-- Instruction fetch, `MemRead(pc, 2)` (20_memory.md R64, R66): big-endian, both addresses checked. -/
def State.fetch (s : State) : Option Word :=
  match s.memRead s.pc.toNat, s.memRead (s.pc.toNat + 1) with
  | some hi, some lo => some (wordOfBytes hi lo)
  | _, _ => none

/-! ### The stack -/

/-- `Push` (10_state.md R29): nothing (StackPointerOutOfRange) where all 16 slots are in use. -/
def State.push (s : State) (a : Word) : Option State :=
  if h : s.sp.val < 16 then
    some { s with stack := s.stack.set s.sp.val a h, sp := ⟨s.sp.val + 1, by omega⟩ }
  else none

/-- `Pop` (10_state.md R29): nothing (StackPointerOutOfRange) where no slot is in use; the popped slot keeps its value. -/
def State.pop (s : State) : Option (Word × State) :=
  if h : 0 < s.sp.val then
    some (s.stack[s.sp.val - 1]'(by omega), { s with sp := ⟨s.sp.val - 1, by omega⟩ })
  else none

end Sys2Proof.Machine
end

