-- ==== Sys2Proof/Machine/Operands.lean ====
section
/-! DEFINITION. The operand forms of 00_scope.md R8, R10: a general register named by a 4-bit field, a block of registers
V0..Vx, the index register as an address. The immediates are the fields themselves, used as they stand
(30_encoding.md R94). -/

namespace Sys2Proof.Machine

/-- `V[x]` read. -/
def State.reg (s : State) (x : Nibble) : Byte := s.v[x.toNat]

/-- `V[x] <- b`. No register is hardwired (10_state.md R21). -/
def State.setReg (s : State) (x : Nibble) (b : Byte) : State := { s with v := s.v.set x.toNat b }

/-- `V0..Vx` inclusive, lowest first (42_index_memory.md R174). -/
def State.regBlock (s : State) (x : Nibble) : List Byte := s.v.toList.take (x.toNat + 1)

/-- Registers written from `k` upwards, one byte each. -/
def setRegsFrom : Vector Byte 16 → Nat → List Byte → Vector Byte 16
  | v, _, [] => v
  | v, k, b :: rest => setRegsFrom (v.setIfInBounds k b) (k + 1) rest

/-- `V0, V1, ...` written from a list of bytes (42_index_memory.md R175). -/
def State.setRegBlock (s : State) (bs : List Byte) : State := { s with v := setRegsFrom s.v 0 bs }

/-- `I` as a data address, an untruncated number (20_memory.md R72, 42_index_memory.md R176). -/
def State.dataAddr (s : State) : Nat := s.i.toNat

/-- `I <- a`. -/
def State.setIndex (s : State) (a : Word) : State := { s with i := a }

/-- A 12-bit immediate as a 16-bit value, `zext_16(nnn)` (30_encoding.md R94). -/
def zext16 (nnn : Addr12) : Word := nnn.setWidth 16

end Sys2Proof.Machine
end

