-- ==== Sys2Proof/Machine/Flags.lean ====
section
/-! DEFINITION. The flag register VF = V[15] (10_state.md R22) and every flag computation of 41_load_alu.md. -/

namespace Sys2Proof.Machine

/-- A flag as the register holds it: 1 or 0. -/
def flagByte (b : Bool) : Byte := if b then 1 else 0

/-- `VF`, the register V[15] (00_scope.md R8). -/
def flagReg : Nibble := 15

/-- `VF <- 1 or 0`. -/
def State.setFlag (s : State) (b : Bool) : State := s.setReg flagReg (flagByte b)

/-- The 9-bit sum of two bytes (41_load_alu.md R146). -/
def sum9 (a b : Byte) : BitVec 9 := a.setWidth 9 + b.setWidth 9

/-- The sum's low eight bits, `s[7:0]`. -/
def sumByte (a b : Byte) : Byte := (sum9 a b).setWidth 8

/-- The carry out of bit 7, `s[8]`. -/
def sumCarry (a b : Byte) : Bool := (sum9 a b).getLsbD 8

/-- 1 where the minuend is at least the subtrahend, unsigned (41_load_alu.md R147, R149). -/
def notBorrow (minuend subtrahend : Byte) : Bool := decide (subtrahend.toNat ≤ minuend.toNat)

/-- The bit a right shift by one shifts out (41_load_alu.md R148). -/
def shiftedOutRight (a : Byte) : Bool := a.getLsbD 0

/-- The bit a left shift by one shifts out (41_load_alu.md R150). -/
def shiftedOutLeft (a : Byte) : Bool := a.getLsbD 7

end Sys2Proof.Machine
end

