-- ==== Sys2Proof/Machine/Display.lean ====
section
/-! DEFINITION. The framebuffer, clear, and the XOR sprite draw with collision (spec/44_display.md). -/

namespace Sys2Proof.Machine

/-- A framebuffer with every pixel off. -/
def Framebuffer.blank : Framebuffer := Vector.replicate 32 (Vector.replicate 64 false)

/-- The pixel in column `x mod 64`, row `y mod 32`: coordinates wrap at both edges (R193). -/
def Framebuffer.pixel (fb : Framebuffer) (x y : Nat) : Bool :=
  (fb[y % 32]'(Nat.mod_lt _ (by decide)))[x % 64]'(Nat.mod_lt _ (by decide))

/-- That pixel toggled, `fb[py][px] XOR 1` (R191, R192). -/
def Framebuffer.toggle (fb : Framebuffer) (x y : Nat) : Framebuffer :=
  fb.set (y % 32)
    ((fb[y % 32]'(Nat.mod_lt _ (by decide))).set (x % 64) (!fb.pixel x y) (Nat.mod_lt _ (by decide)))
    (Nat.mod_lt _ (by decide))

/-- `CLS` (R190): `dirty` is set whatever the framebuffer held (92_eei_decisions.md D16). -/
def execCls (s : State) : Result := .next { s with fb := Framebuffer.blank, dirty := true }.advance

/-- What a draw carries along: the framebuffer, `coll` and `changed` of R191's pseudocode. -/
structure Drawing where
  fb      : Framebuffer
  coll    : Bool
  changed : Bool
  deriving DecidableEq, Repr

/-- One set sprite bit lands on column `x`, row `y`: a collision where the pixel was on, then the toggle (R191, R196). -/
def Drawing.hit (d : Drawing) (x y : Nat) : Drawing where
  fb      := d.fb.toggle x y
  coll    := d.coll || d.fb.pixel x y
  changed := true

/-- Column `c` of a sprite byte is its bit `7 - c` (R195): the most significant bit is the leftmost pixel. -/
def spriteBit (row : Byte) (c : Nat) : Bool := row.getLsbD (7 - c)

/-- One sprite row drawn at column `x0`, row `y`, columns 0 to 7; an off bit changes nothing (R192). -/
def Drawing.row (d : Drawing) (x0 y : Nat) (row : Byte) : Drawing :=
  (List.range 8).foldl (fun d c => if spriteBit row c then d.hit (x0 + c) y else d) d

/-- The rows of a sprite drawn downwards from row `y` (R191). -/
def Drawing.rows (d : Drawing) (x0 : Nat) : Nat → List Byte → Drawing
  | _, [] => d
  | y, row :: rest => Drawing.rows (d.row x0 y row) x0 (y + 1) rest

/-- A whole sprite drawn onto a framebuffer, with its collision and whether a pixel changed (R191). -/
def drawSprite (fb : Framebuffer) (x0 y0 : Nat) (sprite : List Byte) : Drawing :=
  Drawing.rows { fb := fb, coll := false, changed := false } x0 y0 sprite

/-- The outcome of a draw put into the state: the framebuffer, `dirty` set where a pixel toggled and else left as it was
(R197), VF <- collision. -/
def State.commitDrawing (s : State) (d : Drawing) : State :=
  { s with fb := d.fb, dirty := s.dirty || d.changed }.setFlag d.coll

/-- `DRW Vx, Vy, n` (R191, R198): the sprite is read first, as a whole; the coordinates are the old register values. -/
def execDrw (x y n : Nibble) (s : State) : Result :=
  orRaise .addressOutOfRange s (s.loadBlock s.dataAddr n.toNat) fun sprite =>
    .next (s.commitDrawing (drawSprite s.fb (s.reg x).toNat (s.reg y).toNat sprite)).advance

end Sys2Proof.Machine
end

