-- ==== Sys2Proof/Machine/KeypadTimers.lean ====
section
/-! DEFINITION. The keypad and timer instructions (spec/45_keypad_timers.md). -/

namespace Sys2Proof.Machine

/-- `keys[k]` for a key number in 0..15. -/
def State.keyDown (s : State) (k : Nibble) : Bool := s.keys[k.toNat]

/-- The level of the key whose number is a register's full value: nothing (BadArgument) from 16 on, no masking (R210). -/
def State.keyLevel (s : State) (k : Byte) : Option Bool :=
  if k.toNat < 16 then some (s.keyDown (k.setWidth 4)) else none

/-- `SKP Vx` (R210). -/
def execSkp (x : Nibble) (s : State) : Result :=
  orRaise .badArgument s (s.keyLevel (s.reg x)) fun down => .next (s.skipIf down)

/-- `SKNP Vx` (R211). -/
def execSknp (x : Nibble) (s : State) : Result :=
  orRaise .badArgument s (s.keyLevel (s.reg x)) fun down => .next (s.skipIf (!down))

/-- `LD Vx, DT` (R217). -/
def execLdVxDt (x : Nibble) (s : State) : Result := .next (s.setReg x s.dt).advance

/-- The wait-for-key state set. -/
def State.setWait (s : State) (w : Wait) : State := { s with wait := w }

/-- `LD Vx, K` (R212, 90_conflicts.md C2): the wait begins and `pc` stays at this instruction; a later KeyEvent completes it. -/
def execLdVxK (x : Nibble) (s : State) : Result := .next (s.setWait (.key x))

/-- `DT <- b`. -/
def State.setDt (s : State) (b : Byte) : State := { s with dt := b }

/-- `ST <- b`. -/
def State.setSt (s : State) (b : Byte) : State := { s with st := b }

/-- `LD DT, Vx` (R218). -/
def execLdDtVx (x : Nibble) (s : State) : Result := .next (s.setDt (s.reg x)).advance

/-- `LD ST, Vx` (R219). -/
def execLdStVx (x : Nibble) (s : State) : Result := .next (s.setSt (s.reg x)).advance

end Sys2Proof.Machine
end

