-- ==== Sys2Proof/Machine/Environment.lean ====
section
/-! DEFINITION. The transactions other than `Step` (00_scope.md R11): `Reset`, `Load`, `Tick`, `KeyEvent`, `Present`; and the
request pins of one clock. While the block is halted only `Reset` acts (60_exceptions.md R237). -/

namespace Sys2Proof.Machine

/-- `Reset` (70_reset_and_hazards.md R270): every piece of state of 10_state.md R20 at its reset value. The parameters, the
environment's coming transactions and its count of random bytes are not state of the block and stay. -/
def resetBlock (s : State) : State :=
  { State.reset with cfg := s.cfg, draws := s.draws, pending := s.pending }

/-- From here on until the next `Reset` a `Load` is not defined (R274). -/
def State.closeLoad (s : State) : State := { s with loadOpen := false }

/-- `Load(bytes)` (R274, R275): the program is put at 0x200 verbatim; AddressOutOfRange, with nothing written, where it has
more than 3584 bytes; no step outside the window R274 gives it (93_implementation_defined.md U19, assumption log 4). -/
def loadProgram (bytes : List Byte) (s : State) : Result :=
  if s.halted then .next s
  else if !s.loadOpen then .fault .lateLoad
  else if maxProgram < bytes.length then raise .addressOutOfRange s.closeLoad
  else .next { s.closeLoad with mem := Memory.writeAll s.cfg s.mem programBase bytes }

/-- A timer at 0 stays at 0 (45_keypad_timers.md R220). -/
def countDown (b : Byte) : Byte := if b = 0 then 0 else b - 1

/-- `Tick` (R220): both timers count down; it also runs during a wait (R221). -/
def tick (s : State) : State :=
  if s.halted then s else { s with dt := countDown s.dt, st := countDown s.st }

/-- The level of a key set. -/
def State.setKey (s : State) (k : Nibble) (down : Bool) : State := { s with keys := s.keys.set k.toNat down }

/-- The completion of a waiting FX0A by key `k` (R213): the key number goes to the register, `pc` moves on, the wait ends. -/
def State.completeWait (s : State) (x k : Nibble) : State :=
  ((s.setReg x (k.setWidth 8)).advance).setWait .idle

/-- `KeyEvent(k, d)` (R213, R215): a true transition to down completes a wait; the key's level is set in every case. -/
def keyEvent (k : Nibble) (down : Bool) (s : State) : State :=
  if s.halted then s
  else match s.wait with
    | .idle => s.setKey k down
    | .key x => if down && !s.keyDown k then (s.completeWait x k).setKey k down else s.setKey k down

/-- The frame a `Present` hands to the environment, if it hands one (44_display.md R200). -/
def presentedFrame (s : State) : Option Framebuffer :=
  if s.halted then none else if s.dirty then some s.fb else none

/-- `Present` (R200): it changes `dirty` only. -/
def present (s : State) : State := if s.halted then s else { s with dirty := false }

/-- The request inputs of one clock (70_reset_and_hazards.md R283), each with its data. -/
structure RequestPins where
  rst        : Bool
  keyEvt     : Option (Nibble × Bool)
  stepEn     : Bool
  tick60     : Bool
  presentAck : Bool
  deriving DecidableEq, Repr

/-- The transactions of one clock in the order of R282: KeyEvent, Step, Tick, Present; `rst` overrides them all. -/
def RequestPins.transactions (p : RequestPins) : List Transaction :=
  if p.rst then [.reset]
  else
    (match p.keyEvt with | some (k, d) => [.keyEvent k d] | none => []) ++
    (if p.stepEn then [.step] else []) ++ (if p.tick60 then [.tick] else []) ++
    (if p.presentAck then [.present] else [])

/-- The requests of one clock come before what was listed already. -/
def State.clock (s : State) (p : RequestPins) : State := { s with pending := p.transactions ++ s.pending }

end Sys2Proof.Machine
end

