-- ==== Sys2Proof/Machine/Cycle.lean ====
section
/-! DEFINITION. The instruction cycle (30_encoding.md R90) and the choice of the next transaction (00_scope.md R11), over the
meanings of the instructions, which Machine/Step.lean gives them. -/

namespace Sys2Proof.Machine

/-- Decode and execute (R90): an illegal word raises BadInstruction (R104). -/
def decodeAndRun (run : Instr → State → Result) (s : State) (op : Word) : Result :=
  match decodeWord op with
  | .error _ => raise .badInstruction s
  | .ok i => run i s

/-- Fetch, decode, execute; the fetch may raise AddressOutOfRange (20_memory.md R66). The order of the three is the order of
fault priority (60_exceptions.md R238). -/
def fetchAndRun (run : Instr → State → Result) (s : State) : Result :=
  orRaise .addressOutOfRange s s.fetch (decodeAndRun run s)

/-- `Step` (R90): no change while halted (60_exceptions.md R237) or waiting (45_keypad_timers.md R216). After a `Step` no
`Load` is defined (70_reset_and_hazards.md R274). -/
def cycle (run : Instr → State → Result) (s : State) : Result :=
  if s.halted then .next s
  else match s.wait with
    | .key _ => .next s
    | .idle => fetchAndRun run s.closeLoad

/-- One transaction (00_scope.md R11). -/
def transact (run : Instr → State → Result) (t : Transaction) (s : State) : Result :=
  match t with
  | .reset => .next (resetBlock s)
  | .load bytes => loadProgram bytes s
  | .step => cycle run s
  | .tick => .next (tick s)
  | .keyEvent k d => .next (keyEvent k d s)
  | .present => .next (present s)

/-- The first pending transaction taken off the list. -/
def State.dequeue (s : State) (rest : List Transaction) : State := { s with pending := rest }

/-- The next transaction: the first that is pending, or a `Step` where none is. -/
def transactNext (run : Instr → State → Result) (s : State) : Result :=
  match s.pending with
  | [] => cycle run s
  | t :: rest => transact run t (s.dequeue rest)

/-- The address an instruction is placed at, that the next fetch reads: `pc`, or the load address where no instruction
can be fetched at `pc`. -/
def placeAddr (s : State) : Word := if s.pc.toNat + 2 ≤ memSize then s.pc else BitVec.ofNat 16 programBase

/-- An instruction word placed where the next step fetches, the block neither halted nor waiting nor with a transaction
pending, all of which the fetch needs (assumption log 31). -/
def placeWord (s : State) (op : Word) : State :=
  { s with
    pc := placeAddr s
    mem := Memory.writeAll s.cfg s.mem (placeAddr s).toNat (bytesOfWord op)
    wait := .idle, fault := none, halted := false, pending := [] }

end Sys2Proof.Machine
end

