-- ==== Sys2Proof/Machine/Flow.lean ====
section
/-! DEFINITION. Control transfer (spec/40_flow.md). A meaning starts at `pc = P`, the address of its own instruction. -/

namespace Sys2Proof.Machine

/-- `SYS nnn` (R120): BadInstruction under SYS_POLICY = fault, nothing but the advance under nop. -/
def execSys (_nnn : Addr12) (s : State) : Result :=
  match s.cfg.sysPolicy with
  | .fault => raise .badInstruction s
  | .nop => .next s.advance

/-- `RET` (R121). The popped address is not range-checked here (92_eei_decisions.md D24). -/
def execRet (s : State) : Result :=
  orRaise .stackPointerOutOfRange s s.pop fun popped => .next (popped.2.goto popped.1)

/-- `JP nnn` (R122). -/
def execJp (nnn : Addr12) (s : State) : Result := .next (s.goto (zext16 nnn))

/-- `CALL nnn` (R123): the address pushed is `P + 2`. -/
def execCall (nnn : Addr12) (s : State) : Result :=
  orRaise .stackPointerOutOfRange s (s.push (s.pc + 2)) fun t => .next (t.goto (zext16 nnn))

/-- `SE Vx, nn` (R124). -/
def execSeImm (x : Nibble) (nn : Byte) (s : State) : Result := .next (s.skipIf (s.reg x == nn))

/-- `SNE Vx, nn` (R125). -/
def execSneImm (x : Nibble) (nn : Byte) (s : State) : Result := .next (s.skipIf (s.reg x != nn))

/-- `SE Vx, Vy` (R126). -/
def execSeReg (x y : Nibble) (s : State) : Result := .next (s.skipIf (s.reg x == s.reg y))

/-- `SNE Vx, Vy` (R127). -/
def execSneReg (x y : Nibble) (s : State) : Result := .next (s.skipIf (s.reg x != s.reg y))

/-- The target of `JP V0, nnn`, not truncated: nothing (AddressOutOfRange) above 4095 (R128). -/
def offsetTarget (nnn : Addr12) (offset : Byte) : Option Word :=
  if nnn.toNat + offset.toNat < memSize then some (BitVec.ofNat 16 (nnn.toNat + offset.toNat)) else none

/-- `JP V0, nnn` (R128). -/
def execJpV0 (nnn : Addr12) (s : State) : Result :=
  orRaise .addressOutOfRange s (offsetTarget nnn (s.reg 0)) fun t => .next (s.goto t)

end Sys2Proof.Machine
end

