-- ==== Sys2Proof/Machine/IndexMemory.lean ====
section
/-! DEFINITION. The index register and memory instructions (spec/42_index_memory.md). None changes `I` as a side effect of an
access (R176), none writes VF as a flag; each ends with `pc = P + 2` or takes AddressOutOfRange with nothing written. -/

namespace Sys2Proof.Machine

/-- `LD I, nnn` (R170). -/
def execLdI (nnn : Addr12) (s : State) : Result := .next (s.setIndex (zext16 nnn)).advance

/-- `ADD I, Vx` (R171): modulo 65536, no range check, VF not written (92_eei_decisions.md D12). -/
def execAddI (x : Nibble) (s : State) : Result := .next (s.setIndex (s.i + (s.reg x).setWidth 16)).advance

/-- The address of the glyph of a digit, `FONT_BASE + 5 * d` (R172, 10_state.md R36). -/
def glyphAddr (c : Config) (digit : Nibble) : Word := BitVec.ofNat 16 (c.fontBase.val + 5 * digit.toNat)

/-- `LD F, Vx` (R172): the digit is the low four bits of `V[x]` (D13). -/
def execLdF (x : Nibble) (s : State) : Result :=
  .next (s.setIndex (glyphAddr s.cfg ((s.reg x).extractLsb' 0 4))).advance

/-- The decimal digits of a byte, hundreds, tens, units, one byte each (R173, D29). -/
def bcdDigits (b : Byte) : List Byte :=
  [BitVec.ofNat 8 (b.toNat / 100), BitVec.ofNat 8 (b.toNat / 10 % 10), BitVec.ofNat 8 (b.toNat % 10)]

/-- `LD B, Vx` (R173). -/
def execLdB (x : Nibble) (s : State) : Result :=
  orRaise .addressOutOfRange s (s.storeBlock s.dataAddr (bcdDigits (s.reg x))) fun t => .next t.advance

/-- `LD [I], Vx` (R174): `I` unchanged (D14). -/
def execLdMemVx (x : Nibble) (s : State) : Result :=
  orRaise .addressOutOfRange s (s.storeBlock s.dataAddr (s.regBlock x)) fun t => .next t.advance

/-- `LD Vx, [I]` (R175): `I` unchanged (D14). -/
def execLdVxMem (x : Nibble) (s : State) : Result :=
  orRaise .addressOutOfRange s (s.loadBlock s.dataAddr (x.toNat + 1)) fun bs => .next (s.setRegBlock bs).advance

end Sys2Proof.Machine
end

