-- ==== Sys2Proof/Machine/LoadAlu.lean ====
section
/-! DEFINITION. Register load, 8-bit ALU and random (spec/41_load_alu.md). None can fault; each ends with `pc = P + 2`.
For OR, AND, XOR, ADD, SUB, SUBN the operands are read first, then the result is written, then the flag; for the shifts the
flag is written first and the register is read again (R152, 92_eei_decisions.md D9, D10). -/

namespace Sys2Proof.Machine

/-- The result is written, then the flag, then the advance: the shared end of rows 12 to 16 and 18 (R152). -/
def State.resultThenFlag (s : State) (x : Nibble) (result : Byte) (flag : Bool) : State :=
  ((s.setReg x result).setFlag flag).advance

/-- The flag is written, then `V[x]` as it then stands is shifted: the shared form of rows 17 and 19 (R148, R150). -/
def State.flagThenShift (s : State) (x : Nibble) (flag : Bool) (shift : Byte → Byte) : State :=
  ((s.setFlag flag).setReg x (shift ((s.setFlag flag).reg x))).advance

/-- `LD Vx, nn` (R140). -/
def execLdImm (x : Nibble) (nn : Byte) (s : State) : Result := .next (s.setReg x nn).advance

/-- `ADD Vx, nn` (R141): modulo 256, VF not written as a flag (D11). -/
def execAddImm (x : Nibble) (nn : Byte) (s : State) : Result := .next (s.setReg x (s.reg x + nn)).advance

/-- `LD Vx, Vy` (R142). -/
def execLdReg (x y : Nibble) (s : State) : Result := .next (s.setReg x (s.reg y)).advance

/-- `OR Vx, Vy` (R143): VF <- 0. -/
def execOrReg (x y : Nibble) (s : State) : Result := .next (s.resultThenFlag x (s.reg x ||| s.reg y) false)

/-- `AND Vx, Vy` (R144): VF <- 0. -/
def execAndReg (x y : Nibble) (s : State) : Result := .next (s.resultThenFlag x (s.reg x &&& s.reg y) false)

/-- `XOR Vx, Vy` (R145): VF <- 0. -/
def execXorReg (x y : Nibble) (s : State) : Result := .next (s.resultThenFlag x (s.reg x ^^^ s.reg y) false)

/-- `ADD Vx, Vy` (R146): VF <- the carry out of bit 7. -/
def execAddReg (x y : Nibble) (s : State) : Result :=
  .next (s.resultThenFlag x (sumByte (s.reg x) (s.reg y)) (sumCarry (s.reg x) (s.reg y)))

/-- `SUB Vx, Vy` (R147): `V[x] - V[y]`, VF <- not-borrow. -/
def execSub (x y : Nibble) (s : State) : Result :=
  .next (s.resultThenFlag x (s.reg x - s.reg y) (notBorrow (s.reg x) (s.reg y)))

/-- `SUBN Vx, Vy` (R149): `V[y] - V[x]`, VF <- not-borrow. -/
def execSubn (x y : Nibble) (s : State) : Result :=
  .next (s.resultThenFlag x (s.reg y - s.reg x) (notBorrow (s.reg y) (s.reg x)))

/-- `SHR Vx` (R148): in place; `y` is ignored (30_encoding.md R107, D8). -/
def execShr (x _y : Nibble) (s : State) : Result :=
  .next (s.flagThenShift x (shiftedOutRight (s.reg x)) (fun b => b >>> 1))

/-- `SHL Vx` (R150): in place; `y` is ignored (30_encoding.md R107, D8). -/
def execShl (x _y : Nibble) (s : State) : Result :=
  .next (s.flagThenShift x (shiftedOutLeft (s.reg x)) (fun b => b <<< 1))

/-- The next random byte is used up: `draw8()` gives a fresh one at each use (00_scope.md R9). -/
def State.countDraw (s : State) : State := { s with draws := s.draws + 1 }

/-- `RND Vx, nn` (R160): the free byte `draw8()` and `nn`. -/
def execRnd (x : Nibble) (nn : Byte) (s : State) : Result :=
  .next ((s.setReg x (Config.draw8 s.draws &&& nn)).countDraw).advance

end Sys2Proof.Machine
end

