-- ==== Sys2Proof/Machine/Step.lean ====
section
/-! DEFINITION. One step of the machine: the next transaction, with the instructions' meanings of Dispatch.lean. -/

namespace Sys2Proof.Machine

/-- One step: the first pending transaction of the environment, or a `Step` where none is pending. -/
def step (s : State) : Host.Outcome State Fault Refusal := transactNext exec s

/-- `s` with the instruction whose bits are `w` (numbered as spec/opcode_table.json numbers them) where the next step
fetches. -/
def State.withFetchWord (s : State) (nbits w : Nat) : State := placeWord s (tableWord nbits w)

end Sys2Proof.Machine
end

