-- ==== Sys2Proof/Machine/Outputs.lean ====
section
/-! DEFINITION. What the block shows its environment, each a function of the state (70_reset_and_hazards.md R283). -/

namespace Sys2Proof.Machine

/-- `tone` (45_keypad_timers.md R222): a level. -/
def tone (s : State) : Bool := s.st != 0 && !s.halted

/-- The pixel that bit `k` of `fb_out` shows: row `k / 64`, column `k mod 64` (44_display.md R201). -/
def pixelOfBit (s : State) (k : Nat) : Bool := s.fb.pixel (k % 64) (k / 64)

/-- The low `n` bits of `fb_out` as a number. -/
def fbBits (s : State) : Nat → Nat
  | 0 => 0
  | n + 1 => fbBits s n + (if pixelOfBit s n then 2 ^ n else 0)

/-- `fb_out` (44_display.md R201): pixel `(x, y)` at bit `64 * y + x`. -/
def fbOut (s : State) : BitVec 2048 := BitVec.ofNat 2048 (fbBits s 2048)

/-- `dirty_out`. -/
def dirtyOut (s : State) : Bool := s.dirty

/-- `halted_out`. -/
def haltedOut (s : State) : Bool := s.halted

/-- The code of a fault (60_exceptions.md R230). -/
def faultCode : Option FaultKind → BitVec 3
  | none => 0
  | some .addressOutOfRange => 1
  | some .stackPointerOutOfRange => 2
  | some .badArgument => 3
  | some .badInstruction => 4

/-- `fault_code`. -/
def faultOut (s : State) : BitVec 3 := faultCode s.fault

/-- `waiting_out`. -/
def waitingOut (s : State) : Bool := s.wait != .idle

end Sys2Proof.Machine
end

