-- ==== Sys2Proof/Safety.lean ====
section
/-! DEFINITION. What counts as a safe run, in the terms claims use. -/

namespace Sys2Proof.Machine

/-- No fault has been raised since `Reset` (60_exceptions.md R237: a claim takes `fault = None` as a premise or proves it). -/
def State.good (s : State) : Prop := s.fault = none ∧ s.halted = false

/-- The block runs an instruction at its next `Step`: it is neither halted nor waiting for a key (30_encoding.md R90). -/
def State.running (s : State) : Prop := s.halted = false ∧ s.wait = .idle

/-- Every address reads the same in both states, through the machine's own read of one byte. -/
def State.sameMemory (s t : State) : Prop := ∀ a, t.memRead a = s.memRead a

/-- The relations between fields that every reachable state meets: memory is in its canonical form; `halted` is 1 exactly
when a fault is latched (10_state.md R38); `pc` is at most 4098 and every stack slot at most 4096 (R25); a waiting block
stands at a fetchable instruction (45_keypad_timers.md R212). -/
structure State.Inv (s : State) : Prop where
  memory : Memory.wf s.cfg s.mem
  latch  : s.halted = s.fault.isSome
  pc     : s.pc.toNat ≤ 4098
  stack  : ∀ j : Fin 16, s.stack[j].toNat ≤ 4096
  wait   : s.wait ≠ .idle → s.pc.toNat ≤ 4094

/-! ### Shapes of a claim about one instruction -/

/-- A row of the opcode table (30_encoding.md R95, R96): every word whose bits under `mask` are `pattern` is the
instruction `build` reads from its fields. -/
def DecodesAs (mask pattern : Word) (build : Word → Instr) : Prop :=
  ∀ op : Word, op &&& mask = pattern → decodeWord op = .ok (build op)

/-- The instruction takes a fault of kind `k`: `fault` and `halted` change and nothing else does (60_exceptions.md R236,
R237). -/
def Raises (i : Instr) (s : State) (k : FaultKind) : Prop :=
  exec i s = .next { s with fault := some k, halted := true }

/-- The instruction completes, `pc` becomes `a`, and nothing else changes. -/
def GoesTo (i : Instr) (s : State) (a : Word) : Prop :=
  ∃ t, exec i s = .next t ∧ s.sameMemory t ∧ t = { s with pc := a }

/-- The instruction completes with every general register `r` holding `val r`, `pc` at the next instruction, and nothing
else changed. -/
def RegsBecome (i : Instr) (s : State) (val : Nibble → Byte) : Prop :=
  ∃ t, exec i s = .next t ∧ (∀ r, t.reg r = val r) ∧ s.sameMemory t ∧ t = { s with v := t.v, pc := s.pc + 2 }

/-- A set bit of the sprite of `DRW Vx, Vy, n` lands on column `px`, row `py` (44_display.md R191, R193, R195): row `r`
of the sprite is the byte at `I + r`, its column `c` is bit `7 - c`, and both coordinates wrap. -/
def SpriteCovers (s : State) (x y n : Nibble) (px py : Nat) : Prop :=
  ∃ r c : Nat, ∃ b : Byte, r < n.toNat ∧ c < 8 ∧ s.memRead (s.i.toNat + r) = some b ∧ b.getLsbD (7 - c) = true ∧
    ((s.reg x).toNat + c) % 64 = px ∧ ((s.reg y).toNat + r) % 32 = py

/-- The bytes that a store instruction of the table puts at `I`, `I + 1`, ... (20_memory.md R73): FX33 the three decimal
digits of `V[x]` (42_index_memory.md R173), FX55 the registers `V0..Vx` (R174). No other instruction stores. -/
def Stores (i : Instr) (s : State) (bs : List Byte) : Prop :=
  match i with
  | .ldB x => ∃ h d u : Nat, d < 10 ∧ u < 10 ∧ (s.reg x).toNat = 100 * h + 10 * d + u ∧
      bs = [BitVec.ofNat 8 h, BitVec.ofNat 8 d, BitVec.ofNat 8 u]
  | .ldMemVx x => bs.length = x.toNat + 1 ∧ ∀ r : Nibble, r.toNat ≤ x.toNat → bs[r.toNat]? = some (s.reg r)
  | _ => False

/-- The byte at an address after the bytes `bs` were stored at `I`: the stored one inside their range, and outside it the
byte that was there, through the machine's own read. -/
def byteAfterStore (s : State) (bs : List Byte) (a : Nat) : Option Byte :=
  if s.dataAddr ≤ a ∧ a < s.dataAddr + bs.length then bs[a - s.dataAddr]? else s.memRead a

end Sys2Proof.Machine
end

