-- ==== Sys2Proof/Certificates/Slice0/Obligations.lean ====
section
/-! DEFINITION. The statements for the provers, from the numbered rules of spec/. Where a statement rests on a decision of
92_eei_decisions.md (`D<n>`), on a passage from general knowledge (`G<n>` of 93_implementation_defined.md) or on a choice of
the model, its docstring names it and the assumption log entry. A meaning is run at the state whose `pc` is `P`, the address
of the instruction. -/

open Sys2Proof Sys2Proof.Machine

/-! ### Encoding -/

/-- Decoding the encoded word of any well-formed instruction gives the instruction back, so no bit of an operand is lost
(30_encoding.md sections 2 and 3). The encodings are general knowledge G1 (log 6). -/
def Obligations.DecodeOfEncodeIsInstruction : Prop :=
  ∀ i : Instr, i.wellFormed = true → decodeWord (encode i) = .ok i

/-- Every word that decodes is the encoding of what it decodes to, and that is a well-formed instruction: each word has one
meaning (30_encoding.md sections 2 and 3; G1, log 6). -/
def Obligations.EncodeOfDecodeIsWord : Prop :=
  ∀ (op : Word) (i : Instr), decodeWord op = .ok i → encode i = op ∧ i.wellFormed = true

/-- The map by primary opcode, 30_encoding.md R98 (G1, log 6), against the decoder that tries the table's rows in order. -/
def Obligations.DecodeByPrimaryOpcode : Prop :=
  ∀ op : Word, decodeWord op =
    match (op.extractLsb' 12 4).toNat with
    | 0 => if op = 0x00E0 then .ok .cls else if op = 0x00EE then .ok .ret else .ok (.sys (fieldNNN op))
    | 1 => .ok (.jp (fieldNNN op))
    | 2 => .ok (.call (fieldNNN op))
    | 3 => .ok (.seImm (fieldX op) (fieldNN op))
    | 4 => .ok (.sneImm (fieldX op) (fieldNN op))
    | 5 => if fieldN op = 0 then .ok (.seReg (fieldX op) (fieldY op)) else .error (.noRow op)
    | 6 => .ok (.ldImm (fieldX op) (fieldNN op))
    | 7 => .ok (.addImm (fieldX op) (fieldNN op))
    | 8 =>
      match (fieldN op).toNat with
      | 0 => .ok (.ldReg (fieldX op) (fieldY op))
      | 1 => .ok (.orReg (fieldX op) (fieldY op))
      | 2 => .ok (.andReg (fieldX op) (fieldY op))
      | 3 => .ok (.xorReg (fieldX op) (fieldY op))
      | 4 => .ok (.addReg (fieldX op) (fieldY op))
      | 5 => .ok (.sub (fieldX op) (fieldY op))
      | 6 => .ok (.shr (fieldX op) (fieldY op))
      | 7 => .ok (.subn (fieldX op) (fieldY op))
      | 14 => .ok (.shl (fieldX op) (fieldY op))
      | _ => .error (.noRow op)
    | 9 => if fieldN op = 0 then .ok (.sneReg (fieldX op) (fieldY op)) else .error (.noRow op)
    | 10 => .ok (.ldI (fieldNNN op))
    | 11 => .ok (.jpV0 (fieldNNN op))
    | 12 => .ok (.rnd (fieldX op) (fieldNN op))
    | 13 => .ok (.drw (fieldX op) (fieldY op) (fieldN op))
    | 14 =>
      if fieldNN op = 0x9E then .ok (.skp (fieldX op))
      else if fieldNN op = 0xA1 then .ok (.sknp (fieldX op)) else .error (.noRow op)
    | _ =>
      if fieldNN op = 0x07 then .ok (.ldVxDt (fieldX op))
      else if fieldNN op = 0x0A then .ok (.ldVxK (fieldX op))
      else if fieldNN op = 0x15 then .ok (.ldDtVx (fieldX op))
      else if fieldNN op = 0x18 then .ok (.ldStVx (fieldX op))
      else if fieldNN op = 0x1E then .ok (.addI (fieldX op))
      else if fieldNN op = 0x29 then .ok (.ldF (fieldX op))
      else if fieldNN op = 0x33 then .ok (.ldB (fieldX op))
      else if fieldNN op = 0x55 then .ok (.ldMemVx (fieldX op))
      else if fieldNN op = 0x65 then .ok (.ldVxMem (fieldX op))
      else .error (.noRow op)

/-- The encodings the source document itself shows (30_encoding.md R111), as the bytes it writes them in. -/
def Obligations.ShownBytesDecode : Prop :=
  decodeBytes [0x00, 0xE0] = .ok (.cls, []) ∧
  decodeBytes [0x12, 0x00] = .ok (.jp 0x200, []) ∧
  decodeBytes [0x60, 0x0A] = .ok (.ldImm 0 0x0A, []) ∧
  decodeBytes [0x61, 0x05] = .ok (.ldImm 1 0x05, []) ∧
  decodeBytes [0x80, 0x14] = .ok (.addReg 0 1, [])

/-- Which words are illegal, and what a `Step` does with one (30_encoding.md R104): after a successful fetch BadInstruction
is raised and nothing but `fault` and `halted` of the block's state changes (the model's own `loadOpen` closes, log 4).
Rests on G1 (log 6) and D3 (log 5). -/
def Obligations.IllegalWordRaisesBadInstruction : Prop :=
  ∀ op : Word,
    ((∃ e, decodeWord op = .error e) ↔
      ((op.extractLsb' 12 4 = (5 : Nibble) ∧ fieldN op ≠ 0) ∨
       (op.extractLsb' 12 4 = (8 : Nibble) ∧ (fieldN op).toNat ∈ [8, 9, 10, 11, 12, 13, 15]) ∨
       (op.extractLsb' 12 4 = (9 : Nibble) ∧ fieldN op ≠ 0) ∨
       (op.extractLsb' 12 4 = (14 : Nibble) ∧ (fieldNN op).toNat ∉ [0x9E, 0xA1]) ∨
       (op.extractLsb' 12 4 = (15 : Nibble) ∧
         (fieldNN op).toNat ∉ [0x07, 0x0A, 0x15, 0x18, 0x1E, 0x29, 0x33, 0x55, 0x65]))) ∧
    ∀ s : State, s.running → s.fetch = some op → (∃ e, decodeWord op = .error e) →
      transact exec .step s = .next { s with fault := some .badInstruction, halted := true, loadOpen := false }

/-! ### The step -/

/-- Where the two bytes at `pc` decode to `i` and the block is neither halted nor waiting, a `Step` is the meaning of `i`
at that state, `pc` not yet advanced; around it the step only closes the model's own load window (30_encoding.md section 1;
log 4). The step is a `Step` where no transaction is pending, and where one is, that is the first one (log 2). -/
def Obligations.StepRunsTheDecodedInstruction : Prop :=
  ∀ (s : State) (i : Instr) (hi lo : Byte), s.running →
    s.memRead s.pc.toNat = some hi → s.memRead (s.pc.toNat + 1) = some lo → decodeBytes [hi, lo] = .ok (i, []) →
    (s.pending = [] → step s = exec i { s with loadOpen := false }) ∧
    (∀ rest, s.pending = .step :: rest → step s = exec i { s with loadOpen := false, pending := rest })

/-- A step performs the environment's first pending transaction, and a `Step` where none is pending (00_scope.md R11; that
the environment's choices are a list in the state is the model's, log 2). -/
def Obligations.StepPerformsTheFirstPending : Prop :=
  ∀ s : State,
    (s.pending = [] → step s = transact exec .step s) ∧
    (∀ t rest, s.pending = t :: rest → step s = transact exec t { s with pending := rest })

/-- Instruction fetch (20_memory.md R66): the two bytes at `pc` and `pc + 1`, big-endian; where `pc ≥ 4095` the `Step`
raises AddressOutOfRange and executes nothing. What the fault leaves rests on D3 (log 5); that such a `Step` closes the
model's own `loadOpen` is the model's choice (log 4). -/
def Obligations.FetchIsBigEndianAndChecked : Prop :=
  ∀ s : State,
    (s.pc.toNat < 4095 → ∃ hi lo : Byte, s.memRead s.pc.toNat = some hi ∧ s.memRead (s.pc.toNat + 1) = some lo ∧
      s.fetch = some (hi ++ lo)) ∧
    (4095 ≤ s.pc.toNat → s.fetch = none ∧ (s.running → transact exec .step s =
      .next { s with fault := some .addressOutOfRange, halted := true, loadOpen := false }))

/-- No instruction is refused and none stops the machine: every meaning answers a next state from every state. A step
stops only where the environment issues a `Load` outside the window 70_reset_and_hazards.md R274 gives it (D26, U19; log 4); the window's flag `loadOpen` and the list `pending` are
the model's own (logs 2, 4). -/
def Obligations.OnlyALateLoadStops : Prop :=
  (∀ (i : Instr) (s : State), ∃ t, exec i s = .next t) ∧
  ∀ s : State, (∃ t, step s = .next t) ∨
    (step s = .fault .lateLoad ∧ s.halted = false ∧ s.loadOpen = false ∧ ∃ bytes rest, s.pending = .load bytes :: rest)

/-- While halted every transaction but `Reset` changes nothing (60_exceptions.md R237; D3, log 5); the step only takes the
transaction off the model's own list (log 2). -/
def Obligations.HaltedBlockIsFrozen : Prop :=
  ∀ (s : State) (t : Transaction), s.halted = true → t ≠ .reset →
    transact exec t s = .next s ∧ (s.pending = [] → step s = .next s) ∧
    ∀ rest, s.pending = t :: rest → step s = .next { s with pending := rest }

/-- While the block waits for a key a `Step` changes nothing, not even by a fault; and whatever transaction the wait does
not survive is a `Reset` or a key's true transition to down (45_keypad_timers.md R215, R216, 60_exceptions.md R248; D19,
log 19). -/
def Obligations.WaitEndsOnlyByKeyDownOrReset : Prop :=
  ∀ (s : State) (x : Nibble), s.wait = .key x →
    transact exec .step s = .next s ∧
    ∀ (tr : Transaction) (t : State), transact exec tr s = .next t → t.wait ≠ .key x →
      tr = .reset ∨ ∃ k, tr = .keyEvent k true ∧ s.keyDown k = false ∧ s.halted = false

/-- Faults are precise (60_exceptions.md R236; D3, D17, log 5): an instruction either leaves `fault` and `halted` as they
were, or changes nothing but them, latching a kind and halting. -/
def Obligations.FaultingInstructionCommitsNothing : Prop :=
  ∀ (i : Instr) (s t : State), exec i s = .next t →
    (t.fault = s.fault ∧ t.halted = s.halted) ∨ ∃ k, t = { s with fault := some k, halted := true }

/-- Every cause of every fault at execution (60_exceptions.md R231 to R234, the causes that are instructions): an
instruction takes a fault of kind `k` exactly in the listed cases. Rests on D3, D4, D15, D17, D23 (logs 1, 5, 15, 17, 22). -/
def Obligations.ExecutionFaultCauses : Prop :=
  ∀ (i : Instr) (s : State) (k : FaultKind), s.halted = false →
    (Raises i s k ↔
      match i with
      | .sys _ => k = .badInstruction ∧ s.cfg.sysPolicy = .fault
      | .ret => k = .stackPointerOutOfRange ∧ s.sp.val = 0
      | .call _ => k = .stackPointerOutOfRange ∧ s.sp.val = 16
      | .jpV0 nnn => k = .addressOutOfRange ∧ 4095 < nnn.toNat + (s.reg 0).toNat
      | .drw _ _ n => k = .addressOutOfRange ∧ 1 ≤ n.toNat ∧ 4095 < s.i.toNat + n.toNat - 1
      | .ldB _ => k = .addressOutOfRange ∧ 4095 < s.i.toNat + 2
      | .ldMemVx x => k = .addressOutOfRange ∧ 4095 < s.i.toNat + x.toNat
      | .ldVxMem x => k = .addressOutOfRange ∧ 4095 < s.i.toNat + x.toNat
      | .skp x => k = .badArgument ∧ 16 ≤ (s.reg x).toNat
      | .sknp x => k = .badArgument ∧ 16 ≤ (s.reg x).toNat
      | _ => False)

/-! ### Invariants -/

/-- The state after reset meets the invariant, with any parameters (10_state.md section 9, 70_reset_and_hazards.md R270). The
canonical form of memory is the model's choice (log 33), as are the place and the defaults of the parameters (log 1); the
values that R39 marks as its own rest on D21 (log 21). -/
def Obligations.ResetStateMeetsTheInvariant : Prop :=
  State.reset.Inv ∧ ∀ c : Config, ({ State.reset with cfg := c } : State).Inv

/-- Every step from a state that meets the invariant gives one that does, whatever transaction it performs: memory keeps
its canonical form, `halted` is 1 exactly when a fault is latched (10_state.md R38), `pc` stays within 0..4098 and every
stack slot within 0..4096 (R25), a waiting block stands at a fetchable instruction. The canonical form of
memory (`Memory.wf`) and the list of transactions a step takes its own from are the model's choices (logs 33, 2); the latch
rests on D3 (log 5), the waiting block on D19 (log 19). -/
def Obligations.EveryStepKeepsTheInvariant : Prop :=
  ∀ s t : State, s.Inv → step s = .next t → t.Inv

/-! ### What an instruction may change: the frame of every instruction -/

/-- Which general registers an instruction may change (10_state.md R21, R22, 41_load_alu.md, 42_index_memory.md R175,
44_display.md R191, 45_keypad_timers.md R217): its destination, the flag register where the instruction writes it, `V0..Vx`
for FX65, and no other. Rests on D8, D11, D12 (logs 8, 11, 12). -/
def Obligations.RegisterFrame : Prop :=
  ∀ (i : Instr) (s t : State) (r : Nibble), exec i s = .next t → t.reg r ≠ s.reg r →
    match i with
    | .ldImm x _ => r = x
    | .addImm x _ => r = x
    | .ldReg x _ => r = x
    | .orReg x _ => r = x ∨ r = 15
    | .andReg x _ => r = x ∨ r = 15
    | .xorReg x _ => r = x ∨ r = 15
    | .addReg x _ => r = x ∨ r = 15
    | .sub x _ => r = x ∨ r = 15
    | .subn x _ => r = x ∨ r = 15
    | .shr x _ => r = x ∨ r = 15
    | .shl x _ => r = x ∨ r = 15
    | .rnd x _ => r = x
    | .drw _ _ _ => r = 15
    | .ldVxDt x => r = x
    | .ldVxMem x => r.toNat ≤ x.toNat
    | _ => False

/-- What else an instruction may change, state by state (10_state.md R33, R40, 20_memory.md R73): every byte of memory but
for FX33 and FX55 reads as before, and only the named instructions write `I`, the stack, the timers, the framebuffer,
`dirty`, `wait`; none writes the keys or the parameters, and `fault` changes only where the instruction halts the block.
Rests on D3, D14, D18 (logs 5, 14, 18); `draws`, `pending`, `loadOpen` are the model's own (logs 2, 3, 4). -/
def Obligations.StateFrame : Prop :=
  ∀ (i : Instr) (s t : State), exec i s = .next t →
    (¬ s.sameMemory t → (∃ x, i = .ldB x) ∨ ∃ x, i = .ldMemVx x) ∧
    (t.i ≠ s.i → (∃ n, i = .ldI n) ∨ (∃ x, i = .addI x) ∨ ∃ x, i = .ldF x) ∧
    (t.sp ≠ s.sp → i = .ret ∨ ∃ n, i = .call n) ∧
    (t.stack ≠ s.stack → ∃ n, i = .call n) ∧
    (t.dt ≠ s.dt → ∃ x, i = .ldDtVx x) ∧
    (t.st ≠ s.st → ∃ x, i = .ldStVx x) ∧
    (t.fb ≠ s.fb ∨ t.dirty ≠ s.dirty → i = .cls ∨ ∃ x y n, i = .drw x y n) ∧
    (t.wait ≠ s.wait → ∃ x, i = .ldVxK x) ∧
    (t.fault ≠ s.fault → t.halted = true) ∧
    (t.draws ≠ s.draws → ∃ x nn, i = .rnd x nn) ∧
    t.keys = s.keys ∧ t.cfg = s.cfg ∧ t.pending = s.pending ∧ t.loadOpen = s.loadOpen

/-- Where `pc` goes (10_state.md R27): `P + 2` after every instruction that does not write it, `P + 2` or `P + 4` after a
skip, `P` while FX0A waits and after a fault. The targets of JP, JP V0, CALL and RET, which write it, are stated by
JumpsGoToTheirTargets, CallPushesTheReturnAddress and ReturnPopsTheReturnAddress. Rests on C2, D3, D19, G8 (logs 5, 19,
26). -/
def Obligations.ProgramCounterFrame : Prop :=
  ∀ (i : Instr) (s t : State), s.halted = false → exec i s = .next t →
    (t.halted = true → t.pc = s.pc) ∧
    (t.halted = false →
      match i with
      | .jp _ => True
      | .call _ => True
      | .ret => True
      | .jpV0 _ => True
      | .seImm _ _ => t.pc = s.pc + 2 ∨ t.pc = s.pc + 4
      | .sneImm _ _ => t.pc = s.pc + 2 ∨ t.pc = s.pc + 4
      | .seReg _ _ => t.pc = s.pc + 2 ∨ t.pc = s.pc + 4
      | .sneReg _ _ => t.pc = s.pc + 2 ∨ t.pc = s.pc + 4
      | .skp _ => t.pc = s.pc + 2 ∨ t.pc = s.pc + 4
      | .sknp _ => t.pc = s.pc + 2 ∨ t.pc = s.pc + 4
      | .ldVxK _ => t.pc = s.pc
      | _ => t.pc = s.pc + 2)

/-- What the flag register may be left as (10_state.md R22): after an instruction that writes it as a flag it is 0 or 1, but
for SHL with `x = 15`, which can leave 2; no instruction but those and the ones that name it as their destination changes
it. Rests on D9, D10, D11, D12 (logs 9, 11, 12). -/
def Obligations.FlagRegisterIsAFlag : Prop :=
  ∀ (i : Instr) (s t : State), s.halted = false → exec i s = .next t → t.halted = false →
    match i with
    | .orReg _ _ => t.reg 15 = 0
    | .andReg _ _ => t.reg 15 = 0
    | .xorReg _ _ => t.reg 15 = 0
    | .addReg _ _ => t.reg 15 = 0 ∨ t.reg 15 = 1
    | .sub _ _ => t.reg 15 = 0 ∨ t.reg 15 = 1
    | .subn _ _ => t.reg 15 = 0 ∨ t.reg 15 = 1
    | .shr _ _ => t.reg 15 = 0 ∨ t.reg 15 = 1
    | .shl x _ => t.reg 15 = 0 ∨ (if x = 15 then t.reg 15 = 2 else t.reg 15 = 1)
    | .drw _ _ _ => t.reg 15 = 0 ∨ t.reg 15 = 1
    | .ldImm x _ => x = 15 ∨ t.reg 15 = s.reg 15
    | .addImm x _ => x = 15 ∨ t.reg 15 = s.reg 15
    | .ldReg x _ => x = 15 ∨ t.reg 15 = s.reg 15
    | .rnd x _ => x = 15 ∨ t.reg 15 = s.reg 15
    | .ldVxDt x => x = 15 ∨ t.reg 15 = s.reg 15
    | .ldVxMem x => x = 15 ∨ t.reg 15 = s.reg 15
    | _ => t.reg 15 = s.reg 15

/-- What a program cannot observe (10_state.md R41): neither the sound timer, nor `dirty`, nor the stale stack slots at and
above `SP` change what an instruction does to anything else. Two states that differ only there step to states that differ
only there, and agree on whether they fault. -/
def Obligations.UnobservableStateDoesNotInterfere : Prop :=
  ∀ (i : Instr) (s u : State), u = { s with st := u.st, dirty := u.dirty, stack := u.stack } →
    (∀ j : Fin 16, j.val < s.sp.val → u.stack[j] = s.stack[j]) →
    ∃ t w, exec i s = .next t ∧ exec i u = .next w ∧ w = { t with st := w.st, dirty := w.dirty, stack := w.stack } ∧
      ∀ j : Fin 16, j.val < t.sp.val → w.stack[j] = t.stack[j]

/-! ### Control transfer (40_flow.md) -/

/-- `SYS nnn` (40_flow.md R120): BadInstruction with nothing changed under SYS_POLICY = fault, only the advance under nop,
for every word of the 0NNN space but 00E0 and 00EE. Rests on D4, G1, G2 (logs 1, 6, 7). -/
def Obligations.SysFollowsItsPolicy : Prop :=
  (∀ op : Word, op &&& 0xF000 = 0x0000 → op ≠ 0x00E0 → op ≠ 0x00EE → decodeWord op = .ok (.sys (fieldNNN op))) ∧
  ∀ (s : State) (nnn : Addr12),
    (s.cfg.sysPolicy = .fault → Raises (.sys nnn) s .badInstruction) ∧
    (s.cfg.sysPolicy = .nop → GoesTo (.sys nnn) s (s.pc + 2))

/-- `JP nnn` (40_flow.md R122) and `JP V0, nnn` (R128): the target is `nnn`; it is `nnn + V[0]`, not truncated, with
AddressOutOfRange where that exceeds 4095. Rests on D3, G1, G9 (logs 5, 6, 25). -/
def Obligations.JumpsGoToTheirTargets : Prop :=
  DecodesAs 0xF000 0x1000 (fun op => .jp (fieldNNN op)) ∧
  DecodesAs 0xF000 0xB000 (fun op => .jpV0 (fieldNNN op)) ∧
  ∀ (s : State) (nnn : Addr12),
    GoesTo (.jp nnn) s (nnn.setWidth 16) ∧
    (nnn.toNat + (s.reg 0).toNat ≤ 4095 → GoesTo (.jpV0 nnn) s (BitVec.ofNat 16 (nnn.toNat + (s.reg 0).toNat))) ∧
    (4095 < nnn.toNat + (s.reg 0).toNat → Raises (.jpV0 nnn) s .addressOutOfRange)

/-- `CALL nnn` (40_flow.md R123, 10_state.md R29): `P + 2` goes to the next free slot, `SP` counts it, `pc` is `nnn`; with 16
slots in use StackPointerOutOfRange and nothing pushed. Rests on D3, D18, G1 (logs 5, 6, 18). -/
def Obligations.CallPushesTheReturnAddress : Prop :=
  DecodesAs 0xF000 0x2000 (fun op => .call (fieldNNN op)) ∧
  ∀ (s : State) (nnn : Addr12),
    (s.sp.val < 16 → ∃ t, exec (.call nnn) s = .next t ∧
      t.pc = nnn.setWidth 16 ∧ t.sp.val = s.sp.val + 1 ∧
      (∀ j : Fin 16, t.stack[j] = if j.val = s.sp.val then s.pc + 2 else s.stack[j]) ∧
      s.sameMemory t ∧ t = { s with stack := t.stack, sp := t.sp, pc := t.pc }) ∧
    (s.sp.val = 16 → Raises (.call nnn) s .stackPointerOutOfRange)

/-- `RET` (40_flow.md R121, 10_state.md R29): `pc` is the last slot in use, `SP` counts one less and the slot keeps its value,
whatever address it holds; with no slot in use StackPointerOutOfRange. Rests on D3, D18, D24, G1 (logs 5, 6, 18, 23). -/
def Obligations.ReturnPopsTheReturnAddress : Prop :=
  DecodesAs 0xFFFF 0x00EE (fun _ => .ret) ∧
  ∀ s : State,
    (∀ j : Fin 16, j.val + 1 = s.sp.val → ∃ t, exec .ret s = .next t ∧
      t.pc = s.stack[j] ∧ t.sp.val = j.val ∧ s.sameMemory t ∧ t = { s with sp := t.sp, pc := t.pc }) ∧
    (s.sp.val = 0 → Raises .ret s .stackPointerOutOfRange)

/-- The call and return law (40_flow.md R129): from any depth below 16 a call, then anything that leaves the stack balanced,
then a return, resumes at `P + 2` with the depth of before; the 17th nested call faults. Rests on D3, D18 (logs 5, 18). -/
def Obligations.CallThenReturnResumesAfterTheCall : Prop :=
  ∀ (s : State) (nnn : Addr12),
    (s.sp.val < 16 → ∃ t, exec (.call nnn) s = .next t ∧ t.pc = nnn.setWidth 16 ∧
      ∀ u : State, u.sp = t.sp → (∀ j : Fin 16, j.val < t.sp.val → u.stack[j] = t.stack[j]) →
        ∃ w, exec .ret u = .next w ∧ w.pc = s.pc + 2 ∧ w.sp = s.sp) ∧
    (s.sp.val = 16 → Raises (.call nnn) s .stackPointerOutOfRange)

/-- The four register skips (40_flow.md R124, R125, R126, R127): `P + 4` where the comparison holds, `P + 2` where it does
not, and nothing else changes. Rests on G1, G8 (logs 6, 26). -/
def Obligations.SkipsCompareRegisters : Prop :=
  DecodesAs 0xF000 0x3000 (fun op => .seImm (fieldX op) (fieldNN op)) ∧
  DecodesAs 0xF000 0x4000 (fun op => .sneImm (fieldX op) (fieldNN op)) ∧
  DecodesAs 0xF00F 0x5000 (fun op => .seReg (fieldX op) (fieldY op)) ∧
  DecodesAs 0xF00F 0x9000 (fun op => .sneReg (fieldX op) (fieldY op)) ∧
  ∀ (s : State) (x y : Nibble) (nn : Byte),
    GoesTo (.seImm x nn) s (if s.reg x = nn then s.pc + 4 else s.pc + 2) ∧
    GoesTo (.sneImm x nn) s (if s.reg x = nn then s.pc + 2 else s.pc + 4) ∧
    GoesTo (.seReg x y) s (if s.reg x = s.reg y then s.pc + 4 else s.pc + 2) ∧
    GoesTo (.sneReg x y) s (if s.reg x = s.reg y then s.pc + 2 else s.pc + 4)

/-- The idle loop (40_flow.md R131): at a `JP` to its own address no number of steps changes anything, and with any `Step`s,
`Tick`s, `KeyEvent`s and `Present`s in any order only DT, ST, the keys and `dirty` can change (and the model's own `pending`
and `loadOpen`, logs 2 and 4). -/
def Obligations.IdleLoopKeepsTheState : Prop :=
  ∀ (s : State) (op : Word) (nnn : Addr12) (n : Nat),
    s.running → s.fetch = some op → decodeWord op = .ok (.jp nnn) → nnn.setWidth 16 = s.pc →
    (s.pending = [] → s.loadOpen = false → Host.Core.run core n s = .next s) ∧
    ∀ ts : List Transaction, (∀ t ∈ ts, t ≠ .reset ∧ ∀ bytes, t ≠ .load bytes) →
      ∃ u : State, Host.Core.run core n ({ s with pending := ts } : State) = .next u ∧
        u = { s with dt := u.dt, st := u.st, keys := u.keys, dirty := u.dirty, pending := u.pending,
                     loadOpen := u.loadOpen }

/-! ### Register load, ALU, random (41_load_alu.md) -/

/-- `LD Vx, nn` (41_load_alu.md R140): `V[x]` is the immediate, no flag is written, the word is the one the source shows. -/
def Obligations.LoadImmediateSetsTheRegister : Prop :=
  DecodesAs 0xF000 0x6000 (fun op => .ldImm (fieldX op) (fieldNN op)) ∧
  ∀ (s : State) (x : Nibble) (nn : Byte), RegsBecome (.ldImm x nn) s fun r => if r = x then nn else s.reg r

/-- `ADD Vx, nn` (41_load_alu.md R141), modulo 256, VF not written as a flag, and `LD Vx, Vy` (R142). Rests on D11, G1, G10
(logs 6, 11). -/
def Obligations.AddImmediateAndCopy : Prop :=
  DecodesAs 0xF000 0x7000 (fun op => .addImm (fieldX op) (fieldNN op)) ∧
  DecodesAs 0xF00F 0x8000 (fun op => .ldReg (fieldX op) (fieldY op)) ∧
  ∀ (s : State) (x y : Nibble) (nn : Byte),
    RegsBecome (.addImm x nn) s (fun r =>
      if r = x then BitVec.ofNat 8 (((s.reg x).toNat + nn.toNat) % 256) else s.reg r) ∧
    RegsBecome (.ldReg x y) s (fun r => if r = x then s.reg y else s.reg r)

/-- `OR`, `AND`, `XOR` (41_load_alu.md R143, R144, R145): the result bit by bit in `V[x]`, then VF <- 0, which wins where
`x = 15`. Rests on D9, G1 (logs 6, 9). -/
def Obligations.BitwiseClearsTheFlag : Prop :=
  DecodesAs 0xF00F 0x8001 (fun op => .orReg (fieldX op) (fieldY op)) ∧
  DecodesAs 0xF00F 0x8002 (fun op => .andReg (fieldX op) (fieldY op)) ∧
  DecodesAs 0xF00F 0x8003 (fun op => .xorReg (fieldX op) (fieldY op)) ∧
  ∀ (s : State) (x y : Nibble),
    RegsBecome (.orReg x y) s (fun r => if r = 15 then 0 else if r = x then s.reg x ||| s.reg y else s.reg r) ∧
    RegsBecome (.andReg x y) s (fun r => if r = 15 then 0 else if r = x then s.reg x &&& s.reg y else s.reg r) ∧
    RegsBecome (.xorReg x y) s (fun r => if r = 15 then 0 else if r = x then s.reg x ^^^ s.reg y else s.reg r)

/-- `ADD Vx, Vy` (41_load_alu.md R146): the sum modulo 256 in `V[x]`, then VF <- 1 where the sum passes 255 and else 0, which
wins where `x = 15`. Rests on D9 (log 9); the sub-opcode 4 is one the source shows. -/
def Obligations.AddSetsTheCarry : Prop :=
  DecodesAs 0xF00F 0x8004 (fun op => .addReg (fieldX op) (fieldY op)) ∧
  ∀ (s : State) (x y : Nibble), RegsBecome (.addReg x y) s fun r =>
    if r = 15 then (if 255 < (s.reg x).toNat + (s.reg y).toNat then 1 else 0)
    else if r = x then BitVec.ofNat 8 (((s.reg x).toNat + (s.reg y).toNat) % 256) else s.reg r

/-- `SUB Vx, Vy` (41_load_alu.md R147) and `SUBN Vx, Vy` (R149): minuend - subtrahend modulo 256 in `V[x]`, then VF <- 1 where
no borrow occurred, minuend ≥ subtrahend, and else 0. Rests on D9, G1 (logs 6, 9). -/
def Obligations.SubtractSetsNotBorrow : Prop :=
  DecodesAs 0xF00F 0x8005 (fun op => .sub (fieldX op) (fieldY op)) ∧
  DecodesAs 0xF00F 0x8007 (fun op => .subn (fieldX op) (fieldY op)) ∧
  ∀ (s : State) (x y : Nibble),
    RegsBecome (.sub x y) s (fun r =>
      if r = 15 then (if (s.reg y).toNat ≤ (s.reg x).toNat then 1 else 0)
      else if r = x then BitVec.ofNat 8 (((s.reg x).toNat + 256 - (s.reg y).toNat) % 256) else s.reg r) ∧
    RegsBecome (.subn x y) s (fun r =>
      if r = 15 then (if (s.reg x).toNat ≤ (s.reg y).toNat then 1 else 0)
      else if r = x then BitVec.ofNat 8 (((s.reg y).toNat + 256 - (s.reg x).toNat) % 256) else s.reg r)

/-- `SHR Vx` (41_load_alu.md R148) and `SHL Vx` (R150): the bit shifted out goes to VF first, then `V[x]` as it then stands is
shifted by one; so with `x = 15` SHR leaves VF 0 and SHL leaves it 2 or 0. `y` is ignored (30_encoding.md R107). Rests on D8,
D10, G1 (logs 6, 8, 9). -/
def Obligations.ShiftsCaptureTheBitShiftedOut : Prop :=
  DecodesAs 0xF00F 0x8006 (fun op => .shr (fieldX op) (fieldY op)) ∧
  DecodesAs 0xF00F 0x800E (fun op => .shl (fieldX op) (fieldY op)) ∧
  ∀ (s : State) (x y : Nibble),
    RegsBecome (.shr x y) s (fun r =>
      if x = 15 then (if r = 15 then 0 else s.reg r)
      else if r = x then BitVec.ofNat 8 ((s.reg x).toNat / 2)
      else if r = 15 then BitVec.ofNat 8 ((s.reg x).toNat % 2) else s.reg r) ∧
    RegsBecome (.shl x y) s (fun r =>
      if x = 15 then (if r = 15 then (if 128 ≤ (s.reg 15).toNat then 2 else 0) else s.reg r)
      else if r = x then BitVec.ofNat 8 ((s.reg x).toNat * 2 % 256)
      else if r = 15 then (if 128 ≤ (s.reg x).toNat then 1 else 0) else s.reg r)

/-- VF as an operand (41_load_alu.md R152): what VF ends as with `x = 15`, row by row, and that `y = 15` reads the old VF.
For RND that is the free byte and `nn`, the byte named by the model's counter `draws` (D25, log 3), and the clause holds for
every value of the free byte. Rests on D9, D10, D11, G10 (logs 9, 11). -/
def Obligations.FlagRegisterAsOperand : Prop :=
  ∀ (s : State) (x y : Nibble) (nn : Byte),
    let ends := fun (i : Instr) (b : Byte) => ∃ t, exec i s = .next t ∧ t.reg 15 = b
    ends (.ldImm 15 nn) nn ∧ ends (.addImm 15 nn) (s.reg 15 + nn) ∧ ends (.ldReg 15 y) (s.reg y) ∧
    ends (.rnd 15 nn) (Config.draw8 s.draws &&& nn) ∧
    ends (.orReg 15 y) 0 ∧ ends (.andReg 15 y) 0 ∧ ends (.xorReg 15 y) 0 ∧
    ends (.addReg 15 y) (if 255 < (s.reg 15).toNat + (s.reg y).toNat then 1 else 0) ∧
    ends (.sub 15 y) (if (s.reg y).toNat ≤ (s.reg 15).toNat then 1 else 0) ∧
    ends (.subn 15 y) (if (s.reg 15).toNat ≤ (s.reg y).toNat then 1 else 0) ∧
    ends (.shr 15 y) 0 ∧ ends (.shl 15 y) (if 128 ≤ (s.reg 15).toNat then 2 else 0) ∧
    (x ≠ 15 → ∀ t, (exec (.ldReg x 15) s = .next t → t.reg x = s.reg 15) ∧
      (exec (.orReg x 15) s = .next t → t.reg x = s.reg x ||| s.reg 15) ∧
      (exec (.andReg x 15) s = .next t → t.reg x = s.reg x &&& s.reg 15) ∧
      (exec (.xorReg x 15) s = .next t → t.reg x = s.reg x ^^^ s.reg 15) ∧
      (exec (.addReg x 15) s = .next t → t.reg x = s.reg x + s.reg 15) ∧
      (exec (.sub x 15) s = .next t → t.reg x = s.reg x - s.reg 15) ∧
      (exec (.subn x 15) s = .next t → t.reg x = s.reg 15 - s.reg x))

/-- `RND Vx, nn` (41_load_alu.md R160): `V[x]` is a byte the environment supplies, whichever it is, and `nn`; so bits off in
`nn` are off, the byte is used once, and no flag is written. Holds for every value of the free byte. Rests on D25, G1
(logs 3, 6). -/
def Obligations.RandomByteIsMasked : Prop :=
  DecodesAs 0xF000 0xC000 (fun op => .rnd (fieldX op) (fieldNN op)) ∧
  ∀ (s : State) (x : Nibble) (nn : Byte), ∃ t, exec (.rnd x nn) s = .next t ∧
    (∀ r, t.reg r = if r = x then Config.draw8 s.draws &&& nn else s.reg r) ∧
    (∀ j, nn.getLsbD j = false → (t.reg x).getLsbD j = false) ∧
    s.sameMemory t ∧ t = { s with v := t.v, draws := s.draws + 1, pc := s.pc + 2 }

/-! ### Index and memory (42_index_memory.md) -/

/-- `LD I, nnn` (42_index_memory.md R170), `ADD I, Vx` (R171, modulo 65536, neither checked nor flagged), `LD F, Vx` (R172, the
glyph of the low four bits). Rests on D5, D12, D13, G1, G6 (logs 1, 6, 12, 13, 28). -/
def Obligations.IndexRegisterIsSet : Prop :=
  DecodesAs 0xF000 0xA000 (fun op => .ldI (fieldNNN op)) ∧
  DecodesAs 0xF0FF 0xF01E (fun op => .addI (fieldX op)) ∧
  DecodesAs 0xF0FF 0xF029 (fun op => .ldF (fieldX op)) ∧
  ∀ (s : State) (nnn : Addr12) (x : Nibble) (i : Instr) (value : Nat),
    (i = .ldI nnn ∧ value = nnn.toNat) ∨
    (i = .addI x ∧ value = (s.i.toNat + (s.reg x).toNat) % 65536) ∨
    (i = .ldF x ∧ value = s.cfg.fontBase.val + 5 * ((s.reg x).toNat % 16)) →
    ∃ t, exec i s = .next t ∧ t.i.toNat = value ∧ s.sameMemory t ∧ t = { s with i := t.i, pc := s.pc + 2 }

/-- `LD B, Vx` (42_index_memory.md R173): the three decimal digits of `V[x]`, hundreds first, one byte each, at `I`, `I + 1`,
`I + 2`; every other byte and everything else but `pc` is unchanged; AddressOutOfRange with nothing written where
`I + 2 > 4095`. Rests on D3, D17, D29, G1 (logs 5, 6, 17, 27). -/
def Obligations.DecimalDigitsAreStored : Prop :=
  DecodesAs 0xF0FF 0xF033 (fun op => .ldB (fieldX op)) ∧
  ∀ (s : State) (x : Nibble),
    (s.i.toNat + 2 ≤ 4095 → ∀ h d u : Nat, d < 10 → u < 10 → (s.reg x).toNat = 100 * h + 10 * d + u →
      ∃ t, exec (.ldB x) s = .next t ∧
        t.memRead s.dataAddr = some (BitVec.ofNat 8 h) ∧ t.memRead (s.dataAddr + 1) = some (BitVec.ofNat 8 d) ∧
        t.memRead (s.dataAddr + 2) = some (BitVec.ofNat 8 u) ∧
        (∀ a, a < s.dataAddr ∨ s.dataAddr + 2 < a → t.memRead a = s.memRead a) ∧
        t = { s with mem := t.mem, pc := s.pc + 2 }) ∧
    (4095 < s.i.toNat + 2 → Raises (.ldB x) s .addressOutOfRange)

/-- `LD [I], Vx` (42_index_memory.md R174): `V0..Vx` go to `I..I + x`, lowest first; every other byte and everything else but
`pc` is unchanged, `I` included; AddressOutOfRange with nothing written where `I + x > 4095`. Rests on D3, D14, D17, G1
(logs 5, 6, 14, 17). -/
def Obligations.RegisterBlockIsStored : Prop :=
  DecodesAs 0xF0FF 0xF055 (fun op => .ldMemVx (fieldX op)) ∧
  ∀ (s : State) (x : Nibble),
    (s.i.toNat + x.toNat ≤ 4095 → ∃ t, exec (.ldMemVx x) s = .next t ∧
      (∀ r : Nibble, r.toNat ≤ x.toNat → t.memRead (s.dataAddr + r.toNat) = some (s.reg r)) ∧
      (∀ a, a < s.dataAddr ∨ s.dataAddr + x.toNat < a → t.memRead a = s.memRead a) ∧
      t = { s with mem := t.mem, pc := s.pc + 2 }) ∧
    (4095 < s.i.toNat + x.toNat → Raises (.ldMemVx x) s .addressOutOfRange)

/-- `LD Vx, [I]` (42_index_memory.md R175): `V0..Vx` are the bytes at `I..I + x`, the registers above `V[x]` and everything
else but `pc` unchanged; AddressOutOfRange with no register written where `I + x > 4095`. Rests on D3, D14, D17, G1
(logs 5, 6, 14, 17). -/
def Obligations.RegisterBlockIsLoaded : Prop :=
  DecodesAs 0xF0FF 0xF065 (fun op => .ldVxMem (fieldX op)) ∧
  ∀ (s : State) (x : Nibble),
    (s.i.toNat + x.toNat ≤ 4095 → ∃ t, exec (.ldVxMem x) s = .next t ∧
      (∀ r : Nibble, if r.toNat ≤ x.toNat then s.memRead (s.dataAddr + r.toNat) = some (t.reg r) else t.reg r = s.reg r) ∧
      s.sameMemory t ∧ t = { s with v := t.v, pc := s.pc + 2 }) ∧
    (4095 < s.i.toNat + x.toNat → Raises (.ldVxMem x) s .addressOutOfRange)

/-- What FX55 stores, FX65 with the same `x` and `I` loads back (42_index_memory.md R174, R175, 20_memory.md R63), whatever
happened to the registers in between. -/
def Obligations.StoredBlockLoadsBack : Prop :=
  ∀ (s t u : State) (x : Nibble), s.i.toNat + x.toNat ≤ 4095 → exec (.ldMemVx x) s = .next t →
    u.sameMemory t → u.i = s.i →
    ∃ w, exec (.ldVxMem x) u = .next w ∧ ∀ r : Nibble, r.toNat ≤ x.toNat → w.reg r = s.reg r

/-- A store is seen by every later fetch, the very next one included (20_memory.md R71): after FX33 or FX55 a fetch at any
`pc` reads, byte by byte, the stored byte where the store wrote it and the old byte elsewhere (both bytes, one, or none of
the word), in every state whose memory is still as the store left it; and the next `Step` runs the word so read. Rests on
D3, D14, D17, D29 (logs 5, 14, 17, 27); that the next step is that `Step` where no transaction is pending, and that it closes
the model's own `loadOpen`, is the model's choice (logs 2, 4). -/
def Obligations.StoreIsSeenByTheNextFetch : Prop :=
  ∀ (s t : State) (i : Instr) (bs : List Byte), Stores i s bs → s.dataAddr + bs.length ≤ 4096 → exec i s = .next t →
    t.pc = s.pc + 2 ∧
    (∀ u : State, t.sameMemory u → u.pc.toNat + 1 ≤ 4095 → ∃ hi lo : Byte, byteAfterStore s bs u.pc.toNat = some hi ∧
      byteAfterStore s bs (u.pc.toNat + 1) = some lo ∧ u.fetch = some (hi ++ lo)) ∧
    ∀ hi lo : Byte, byteAfterStore s bs t.pc.toNat = some hi → byteAfterStore s bs (t.pc.toNat + 1) = some lo →
      t.running → t.pending = [] →
      step t = (match decodeWord (hi ++ lo) with
        | .ok j => exec j { t with loadOpen := false }
        | .error _ => .next { t with fault := some .badInstruction, halted := true, loadOpen := false })

/-- The law of memory (20_memory.md R63), for the one-byte accesses every memory instruction is made of: at an address
0..4095 a write succeeds and a read returns the byte written, every other byte reads as before and nothing but memory
changes; above 4095 both fail, and the fault of the one-byte store FX55 and load FX65 there is AddressOutOfRange. -/
def Obligations.ReadAfterWrite : Prop :=
  ∀ (s : State) (a : Nat) (b : Byte),
    (a ≤ 4095 → ∃ t, s.memWrite a b = some t ∧ t.memRead a = some b ∧ (∀ c, c ≠ a → t.memRead c = s.memRead c) ∧
      t = { s with mem := t.mem } ∧ ∃ old, s.memRead a = some old) ∧
    (4095 < a → s.memWrite a b = none ∧ s.memRead a = none ∧
      (s.i.toNat = a → ∃ t u, exec (.ldMemVx 0) s = .next t ∧ exec (.ldVxMem 0) s = .next u ∧
        t.fault = some .addressOutOfRange ∧ u.fault = some .addressOutOfRange))

/-! ### Display (44_display.md) -/

/-- `CLS` (44_display.md R190): every pixel off and `dirty` set whatever was on the screen, nothing else but `pc` changes.
Rests on D16 (log 16). -/
def Obligations.ClearTurnsEveryPixelOff : Prop :=
  DecodesAs 0xFFFF 0x00E0 (fun _ => .cls) ∧
  ∀ s : State, ∃ t, exec .cls s = .next t ∧ (∀ (y : Fin 32) (x : Fin 64), t.fb[y][x] = false) ∧
    s.sameMemory t ∧ t = { s with fb := t.fb, dirty := true, pc := s.pc + 2 }

/-- `DRW Vx, Vy, n` pixel by pixel (44_display.md R191, R192, R193, R195): each pixel is toggled exactly where a set sprite bit
lands on it, with wrap at both edges and the most significant bit leftmost; nothing but the framebuffer, VF, `dirty` and
`pc` changes. The step's own loop draws bit after bit. Rests on D7, D30, G1, G4 (logs 6, 24, 29), and for `n = 0` on
D15 (log 15). -/
def Obligations.DrawTogglesTheCoveredPixels : Prop :=
  DecodesAs 0xF000 0xD000 (fun op => .drw (fieldX op) (fieldY op) (fieldN op)) ∧
  ∀ (s : State) (x y n : Nibble), n = 0 ∨ s.i.toNat + n.toNat - 1 ≤ 4095 → ∃ t, exec (.drw x y n) s = .next t ∧
    (∀ (py : Fin 32) (px : Fin 64), (t.fb[py][px] ≠ s.fb[py][px] ↔ SpriteCovers s x y n px.val py.val)) ∧
    (∀ r, r ≠ 15 → t.reg r = s.reg r) ∧ s.sameMemory t ∧
    t = { s with fb := t.fb, v := t.v, dirty := t.dirty, pc := s.pc + 2 }

/-- The collision flag and `dirty` (44_display.md R196, R197): after a draw VF is 1 exactly where a set sprite bit landed on a
pixel that was on, and else 0; `dirty` is set where a pixel toggled and else left as it was. Rests on D7, D16, D30, G4 (logs 16, 24, 29), and for `n = 0`
on D15 (log 15). -/
def Obligations.DrawReportsCollisionAndDirty : Prop :=
  ∀ (s t : State) (x y n : Nibble), n = 0 ∨ s.i.toNat + n.toNat - 1 ≤ 4095 → exec (.drw x y n) s = .next t →
    (t.reg 15 = 0 ∨ t.reg 15 = 1) ∧
    (t.reg 15 = 1 ↔ ∃ (py : Fin 32) (px : Fin 64), SpriteCovers s x y n px.val py.val ∧ s.fb[py][px] = true) ∧
    (t.dirty = true ↔ s.dirty = true ∨ ∃ (py : Fin 32) (px : Fin 64), SpriteCovers s x y n px.val py.val)

/-- The double draw (44_display.md R199): the same sprite drawn a second time at the same coordinates, read from whichever
registers then hold them, restores the framebuffer; on a blank field VF is 0 after the first draw and after the second 1
exactly where the sprite has a set bit. Rests on D30 (log 24), and for `n = 0` on D15 (log 15). -/
def Obligations.DrawingTwiceRestores : Prop :=
  ∀ (s t u : State) (x y x' y' n : Nibble), n = 0 ∨ s.i.toNat + n.toNat - 1 ≤ 4095 → exec (.drw x y n) s = .next t →
    u.fb = t.fb → u.sameMemory s → u.i = s.i → u.reg x' = s.reg x → u.reg y' = s.reg y →
    ∃ w, exec (.drw x' y' n) u = .next w ∧ w.fb = s.fb ∧
      ((∀ (py : Fin 32) (px : Fin 64), s.fb[py][px] = false) → t.reg 15 = 0 ∧
        w.reg 15 = if ∃ (py : Fin 32) (px : Fin 64), t.fb[py][px] = true then 1 else 0)

/-- The sprite read (44_display.md R194, R198): with `n ≥ 1` and a byte past 4095 the draw takes AddressOutOfRange and changes
nothing; with `n = 0` no address is formed, no pixel changes and VF is 0. Rests on D3, D15, D17 (logs 5, 15, 17). -/
def Obligations.SpriteReadIsChecked : Prop :=
  ∀ (s : State) (x y n : Nibble),
    (1 ≤ n.toNat → 4095 < s.i.toNat + n.toNat - 1 → Raises (.drw x y n) s .addressOutOfRange) ∧
    (n = 0 → RegsBecome (.drw x y n) s fun r => if r = 15 then 0 else s.reg r)

/-- `Present` (44_display.md R200): where the block is not halted and `dirty` is set, a copy of the framebuffer is handed out
and `dirty` cleared; else nothing is handed out and nothing changes. -/
def Obligations.PresentHandsOutADirtyFrame : Prop :=
  ∀ s : State,
    (s.halted = false → s.dirty = true →
      presentedFrame s = some s.fb ∧ transact exec .present s = .next { s with dirty := false }) ∧
    (s.halted = true ∨ s.dirty = false → presentedFrame s = none ∧ transact exec .present s = .next s)

/-! ### Keypad and timers (45_keypad_timers.md) -/

/-- `SKP Vx` (45_keypad_timers.md R210) and `SKNP Vx` (R211): `P + 4` where the key numbered by the full register value is
down, up respectively, else `P + 2`; BadArgument where that value is 16 or more. Rests on D3, G1 (logs 5, 6). -/
def Obligations.SkipsTestTheKey : Prop :=
  DecodesAs 0xF0FF 0xE09E (fun op => .skp (fieldX op)) ∧
  DecodesAs 0xF0FF 0xE0A1 (fun op => .sknp (fieldX op)) ∧
  ∀ (s : State) (x : Nibble),
    (∀ k : Fin 16, (s.reg x).toNat = k.val →
      GoesTo (.skp x) s (if s.keys[k] = true then s.pc + 4 else s.pc + 2) ∧
      GoesTo (.sknp x) s (if s.keys[k] = true then s.pc + 2 else s.pc + 4)) ∧
    (16 ≤ (s.reg x).toNat → Raises (.skp x) s .badArgument ∧ Raises (.sknp x) s .badArgument)

/-- `LD Vx, K` (45_keypad_timers.md R212): the instruction sets the wait and leaves `pc` at itself, whatever keys are down; the
first true transition to down then stores the key number, moves `pc` on by 2 and ends the wait. Rests on C2, D19, G1
(logs 6, 19). -/
def Obligations.WaitForKeySuspendsUntilAKey : Prop :=
  DecodesAs 0xF0FF 0xF00A (fun op => .ldVxK (fieldX op)) ∧
  ∀ (s : State) (x k : Nibble), ∃ t, exec (.ldVxK x) s = .next t ∧ s.sameMemory t ∧ t = { s with wait := .key x } ∧
    (s.halted = false → s.keyDown k = false → ∃ u, transact exec (.keyEvent k true) t = .next u ∧
      (∀ r, u.reg r = if r = x then k.setWidth 8 else s.reg r) ∧ u.pc = s.pc + 2 ∧ u.wait = .idle ∧ u.keyDown k = true)

/-- `KeyEvent(k, d)` (45_keypad_timers.md R213, R214, R215): the level of key `k` becomes `d`; only a true transition to down
during a wait writes its register, `pc` and `wait` as well; while halted nothing changes. Rests on D3, D19 (logs 5, 19). -/
def Obligations.KeyEventSetsTheLevel : Prop :=
  ∀ (s : State) (k : Nibble) (d : Bool),
    (s.halted = true → transact exec (.keyEvent k d) s = .next s) ∧
    (s.halted = false → ∃ t, transact exec (.keyEvent k d) s = .next t ∧
      (∀ j, t.keyDown j = if j = k then d else s.keyDown j) ∧
      (∀ x, s.wait = .key x → d = true → s.keyDown k = false →
        (∀ r, t.reg r = if r = x then k.setWidth 8 else s.reg r) ∧
        t = { s with keys := t.keys, v := t.v, pc := s.pc + 2, wait := .idle }) ∧
      (s.wait = .idle ∨ d = false ∨ s.keyDown k = true → t = { s with keys := t.keys }))

/-- `LD Vx, DT` (45_keypad_timers.md R217), `LD DT, Vx` (R218), `LD ST, Vx` (R219): one byte copied, nothing else but `pc`
changed; the tone follows ST at once (R222). Rests on D20, G1 (logs 6, 20). -/
def Obligations.TimersAreReadAndWritten : Prop :=
  DecodesAs 0xF0FF 0xF007 (fun op => .ldVxDt (fieldX op)) ∧
  DecodesAs 0xF0FF 0xF015 (fun op => .ldDtVx (fieldX op)) ∧
  DecodesAs 0xF0FF 0xF018 (fun op => .ldStVx (fieldX op)) ∧
  ∀ (s : State) (x : Nibble),
    RegsBecome (.ldVxDt x) s (fun r => if r = x then s.dt else s.reg r) ∧
    (∃ t, exec (.ldDtVx x) s = .next t ∧ s.sameMemory t ∧ t = { s with dt := s.reg x, pc := s.pc + 2 }) ∧
    (∃ t, exec (.ldStVx x) s = .next t ∧ s.sameMemory t ∧ t = { s with st := s.reg x, pc := s.pc + 2 } ∧
      (s.halted = false → (tone t = true ↔ s.reg x ≠ 0)))

/-- `Tick` (45_keypad_timers.md R220): each timer counts down by one and stays at 0 there, and nothing else changes; while
halted nothing does. -/
def Obligations.TickCountsBothTimersDown : Prop :=
  ∀ s : State,
    (s.halted = true → transact exec .tick s = .next s) ∧
    (s.halted = false → ∃ t, transact exec .tick s = .next t ∧
      t.dt.toNat = s.dt.toNat - 1 ∧ t.st.toNat = s.st.toNat - 1 ∧ t = { s with dt := t.dt, st := t.st })

/-! ### Reset, load, the environment (70_reset_and_hazards.md) -/

/-- `Reset` (70_reset_and_hazards.md R270, 10_state.md R39): every piece of state at its reset value from any state, a halted
one too; memory is the font in its place and 0 elsewhere. The lines for `fb`, `dirty`, `keys`, `wait`, `fault`, `halted` are
D21 (log 21). The parameters and the model's own `draws` and `pending` stay (logs 1, 2, 3); the model's own `loadOpen`
becomes true, so that one `Load` is defined again (log 4, the window of R274). -/
def Obligations.ResetPutsEveryPieceOfState : Prop :=
  ∀ s : State, ∃ t, transact exec .reset s = .next t ∧
    (∀ r, t.reg r = 0) ∧ t.i = 0 ∧ t.pc = 0x200 ∧ t.sp = 0 ∧ (∀ j : Fin 16, t.stack[j] = 0) ∧ t.dt = 0 ∧ t.st = 0 ∧
    (∀ a, 4096 ≤ a → t.memRead a = none) ∧
    (∀ j : Fin 80, t.memRead (s.cfg.fontBase.val + j.val) = some s.cfg.fontRom[j]) ∧
    (∀ a, a < 4096 → a < s.cfg.fontBase.val ∨ s.cfg.fontBase.val + 80 ≤ a → t.memRead a = some 0) ∧
    (∀ (y : Fin 32) (x : Fin 64), t.fb[y][x] = false) ∧ t.dirty = false ∧ (∀ k, t.keyDown k = false) ∧
    t.wait = .idle ∧ t.fault = none ∧ t.halted = false ∧ t.cfg = s.cfg ∧ t.pending = s.pending ∧ t.draws = s.draws ∧
    t.loadOpen = true

/-- The state the machine starts in (10_state.md R39, 70_reset_and_hazards.md R271): every piece of state at its value of R39,
with the default parameters of 00_scope.md R6 and the font of 10_state.md R36 at 0x000 (D4, D5, D6, D21, D27, G3; logs 1,
21). That the start state takes the defaults, and the form of its memory, are the model's choices (logs 1, 33). -/
def Obligations.StartStateIsTheResetState : Prop :=
  State.reset.pc = 0x200 ∧ State.reset.cfg.fontBase.val = 0 ∧ State.reset.cfg.sysPolicy = .fault ∧
  State.reset.cfg.ips = none ∧
  (∀ r, State.reset.reg r = 0) ∧ State.reset.i = 0 ∧ State.reset.sp = 0 ∧ (∀ j : Fin 16, State.reset.stack[j] = 0) ∧
  State.reset.dt = 0 ∧ State.reset.st = 0 ∧
  (∀ (y : Fin 32) (x : Fin 64), State.reset.fb[y][x] = false) ∧ State.reset.dirty = false ∧
  (∀ k, State.reset.keyDown k = false) ∧ State.reset.wait = .idle ∧ State.reset.fault = none ∧ State.reset.halted = false ∧
  (∀ a, 4096 ≤ a → State.reset.memRead a = none) ∧
  (∀ a, a < 4096 → State.reset.memRead a =
    some (([0xF0, 0x90, 0x90, 0x90, 0xF0, 0x20, 0x60, 0x20, 0x20, 0x70, 0xF0, 0x10, 0xF0, 0x80, 0xF0, 0xF0, 0x10, 0xF0,
            0x10, 0xF0, 0x90, 0x90, 0xF0, 0x10, 0x10, 0xF0, 0x80, 0xF0, 0x10, 0xF0, 0xF0, 0x80, 0xF0, 0x90, 0xF0, 0xF0,
            0x10, 0x20, 0x40, 0x40, 0xF0, 0x90, 0xF0, 0x90, 0xF0, 0xF0, 0x90, 0xF0, 0x10, 0xF0, 0xF0, 0x90, 0xF0, 0x90,
            0x90, 0xE0, 0x90, 0xE0, 0x90, 0xE0, 0xF0, 0x80, 0x80, 0x80, 0xF0, 0xE0, 0x90, 0x90, 0x90, 0xE0, 0xF0, 0x80,
            0xF0, 0x80, 0xF0, 0xF0, 0x80, 0xF0, 0x80, 0x80] : List Byte).getD a 0))

/-- `Load(bytes)` in its window (70_reset_and_hazards.md R274, R275): the program lies at 0x200 verbatim and nothing else
changes (but the model's own `loadOpen`, log 4); more than 3584 bytes write nothing and halt with AddressOutOfRange; while
halted nothing changes; outside the window there is no step. Rests on C3, D3, D26 (logs 4, 5). -/
def Obligations.LoadPlacesTheProgram : Prop :=
  ∀ (s : State) (bytes : List Byte),
    (s.halted = true → transact exec (.load bytes) s = .next s) ∧
    (s.halted = false → s.loadOpen = false → transact exec (.load bytes) s = .fault .lateLoad) ∧
    (s.halted = false → s.loadOpen = true → 3584 < bytes.length →
      transact exec (.load bytes) s = .next { s with fault := some .addressOutOfRange, halted := true, loadOpen := false }) ∧
    (s.halted = false → s.loadOpen = true → bytes.length ≤ 3584 → ∃ t, transact exec (.load bytes) s = .next t ∧
      (∀ j : Fin bytes.length, t.memRead (0x200 + j.val) = some bytes[j]) ∧
      (∀ a, a < 0x200 ∨ 0x200 + bytes.length ≤ a → t.memRead a = s.memRead a) ∧
      t = { s with mem := t.mem, loadOpen := false })

/-- A loaded program runs from its first word (70_reset_and_hazards.md R271, R274, R276): from the reset state with the
transaction `Load` pending, the second step runs the word of the program's first two bytes, at 0x200. That the
load is a pending transaction, and that the step after it is a `Step` because none is pending then, are the model's choices
(logs 2, 31); the window is D26 (log 4). -/
def Obligations.LoadedProgramRunsFromItsFirstWord : Prop :=
  ∀ (b0 b1 : Byte) (rest : List Byte) (i : Instr), rest.length + 2 ≤ 3584 → decodeWord (b0 ++ b1) = .ok i →
    ∃ t : State, step { State.reset with pending := [.load (b0 :: b1 :: rest)] } = .next t ∧ t.pc = 0x200 ∧
      step t = exec i t

/-- The requests of one clock (70_reset_and_hazards.md R282): performed as KeyEvent, Step, Tick, Present; `rst` overrides all.
Of its consequences: an FX15 in the clock of a `Tick` is decremented at once. Rests on D1, D2 (log 10); that the requests become the front of the list
`pending` is the model's choice (log 2). -/
def Obligations.RequestsOfOneClockAreOrdered : Prop :=
  (∀ p : RequestPins, p.rst = true → p.transactions = [.reset]) ∧
  (∀ p : RequestPins, p.rst = false → ∀ tr, tr ∈ p.transactions ↔
    (∃ k d, p.keyEvt = some (k, d) ∧ tr = .keyEvent k d) ∨ (p.stepEn = true ∧ tr = .step) ∨
    (p.tick60 = true ∧ tr = .tick) ∨ (p.presentAck = true ∧ tr = .present)) ∧
  (∀ k d, RequestPins.transactions ⟨false, some (k, d), true, true, true⟩ = [.keyEvent k d, .step, .tick, .present]) ∧
  (∀ p : RequestPins, p.rst = false → ∃ k d, p.transactions.Sublist [.keyEvent k d, .step, .tick, .present]) ∧
  (∀ (s : State) (op : Word) (x : Nibble), s.running → s.pending = [] → s.fetch = some op →
    decodeWord op = .ok (.ldDtVx x) → ∃ t : State,
      Host.Core.run core 2 (s.clock ⟨false, none, true, true, false⟩) = .next t ∧
      t.dt.toNat = (s.reg x).toNat - 1 ∧ t.pending = [])

/-- The outputs (45_keypad_timers.md R222, 44_display.md R201, 60_exceptions.md R230, 70_reset_and_hazards.md R283): `tone` is 1
while ST is not 0 and the block is not halted; pixel (x, y) is bit 64 * y + x of `fb_out`; the fault codes 0 to 4; the
others. Rests on D1, D3, D20, D31 (logs 5, 10, 20, 30). -/
def Obligations.OutputsShowTheState : Prop :=
  ∀ s : State,
    (tone s = true ↔ s.st ≠ 0 ∧ s.halted = false) ∧
    (∀ (y : Fin 32) (x : Fin 64), (fbOut s).getLsbD (64 * y.val + x.val) = s.fb[y][x]) ∧
    dirtyOut s = s.dirty ∧ haltedOut s = s.halted ∧ (waitingOut s = true ↔ s.wait ≠ .idle) ∧
    (faultOut s).toNat = match s.fault with
      | none => 0
      | some .addressOutOfRange => 1
      | some .stackPointerOutOfRange => 2
      | some .badArgument => 3
      | some .badInstruction => 4
end

