-- ==== Sys2Proof/Laws/Decode.lean ====
section
/-! SUPPORT. The fields of an encoded word, and the masks of the opcode table as fields: what the proofs about decoding cite. -/

namespace Sys2Proof

/-- The primary opcode `t`, bits 15:12 (30_encoding.md R92). -/
abbrev topNibble (op : Word) : Nibble := op.extractLsb' 12 4

/-! ### Fields of an encoded word -/

@[simp] theorem topNibble_encodeA (t : Nibble) (nnn : Addr12) : topNibble (encodeA t nnn) = t :=
  BitVec.extractLsb'_append_eq_left

@[simp] theorem fieldNNN_encodeA (t : Nibble) (nnn : Addr12) : fieldNNN (encodeA t nnn) = nnn :=
  BitVec.extractLsb'_append_eq_right

@[simp] theorem topNibble_encodeXI (t x : Nibble) (nn : Byte) : topNibble (encodeXI t x nn) = t := by
  apply BitVec.eq_of_getLsbD_eq; intro j hj
  simp only [encodeXI, BitVec.getLsbD_append, BitVec.getLsbD_extractLsb']
  interval_cases j <;> simp (decide := true)

@[simp] theorem fieldX_encodeXI (t x : Nibble) (nn : Byte) : fieldX (encodeXI t x nn) = x := by
  apply BitVec.eq_of_getLsbD_eq; intro j hj
  simp only [fieldX, encodeXI, BitVec.getLsbD_append, BitVec.getLsbD_extractLsb']
  interval_cases j <;> simp (decide := true)

@[simp] theorem fieldNN_encodeXI (t x : Nibble) (nn : Byte) : fieldNN (encodeXI t x nn) = nn :=
  BitVec.extractLsb'_append_eq_right

@[simp] theorem topNibble_encodeXYN (t x y n : Nibble) : topNibble (encodeXYN t x y n) = t := by
  apply BitVec.eq_of_getLsbD_eq; intro j hj
  simp only [encodeXYN, BitVec.getLsbD_append, BitVec.getLsbD_extractLsb']
  interval_cases j <;> simp (decide := true)

@[simp] theorem fieldX_encodeXYN (t x y n : Nibble) : fieldX (encodeXYN t x y n) = x := by
  apply BitVec.eq_of_getLsbD_eq; intro j hj
  simp only [fieldX, encodeXYN, BitVec.getLsbD_append, BitVec.getLsbD_extractLsb']
  interval_cases j <;> simp (decide := true)

@[simp] theorem fieldY_encodeXYN (t x y n : Nibble) : fieldY (encodeXYN t x y n) = y := by
  apply BitVec.eq_of_getLsbD_eq; intro j hj
  simp only [fieldY, encodeXYN, BitVec.getLsbD_append, BitVec.getLsbD_extractLsb']
  interval_cases j <;> simp (decide := true)

@[simp] theorem fieldN_encodeXYN (t x y n : Nibble) : fieldN (encodeXYN t x y n) = n :=
  BitVec.extractLsb'_append_eq_right

/-! ### Masks as fields -/

/-- The mask 0xF000 keeps the primary opcode. -/
theorem and_F000 (op : Word) : op &&& 0xF000#16 = encodeA (topNibble op) 0 := by
  apply BitVec.eq_of_getLsbD_eq; intro j hj
  simp only [encodeA, BitVec.getLsbD_and, BitVec.getLsbD_append, BitVec.getLsbD_extractLsb']
  interval_cases j <;> simp (decide := true)

/-- The mask 0xF00F keeps the primary opcode and the sub-opcode `n`. -/
theorem and_F00F (op : Word) : op &&& 0xF00F#16 = encodeXYN (topNibble op) 0 0 (fieldN op) := by
  apply BitVec.eq_of_getLsbD_eq; intro j hj
  simp only [encodeXYN, fieldN, BitVec.getLsbD_and, BitVec.getLsbD_append, BitVec.getLsbD_extractLsb']
  interval_cases j <;> simp (decide := true)

/-- The mask 0xF0FF keeps the primary opcode and the sub-opcode byte `nn`. -/
theorem and_F0FF (op : Word) : op &&& 0xF0FF#16 = encodeXI (topNibble op) 0 (fieldNN op) := by
  apply BitVec.eq_of_getLsbD_eq; intro j hj
  simp only [encodeXI, fieldNN, BitVec.getLsbD_and, BitVec.getLsbD_append, BitVec.getLsbD_extractLsb']
  interval_cases j <;> simp (decide := true)

/-- The mask 0xFFFF keeps the whole word. -/
theorem and_FFFF (op : Word) : op &&& 0xFFFF#16 = op := BitVec.and_allOnes (w := 16)

/-! ### Words from their fields -/

theorem encodeA_fields (op : Word) : encodeA (topNibble op) (fieldNNN op) = op := by
  apply BitVec.eq_of_getLsbD_eq; intro j hj
  simp only [encodeA, fieldNNN, BitVec.getLsbD_append, BitVec.getLsbD_extractLsb']
  interval_cases j <;> simp (decide := true)

theorem encodeXI_fields (op : Word) : encodeXI (topNibble op) (fieldX op) (fieldNN op) = op := by
  apply BitVec.eq_of_getLsbD_eq; intro j hj
  simp only [encodeXI, fieldX, fieldNN, BitVec.getLsbD_append, BitVec.getLsbD_extractLsb']
  interval_cases j <;> simp (decide := true)

theorem encodeXYN_fields (op : Word) : encodeXYN (topNibble op) (fieldX op) (fieldY op) (fieldN op) = op := by
  apply BitVec.eq_of_getLsbD_eq; intro j hj
  simp only [encodeXYN, fieldX, fieldY, fieldN, BitVec.getLsbD_append, BitVec.getLsbD_extractLsb']
  interval_cases j <;> simp (decide := true)

theorem encodeA_inj {t t' : Nibble} {a a' : Addr12} : encodeA t a = encodeA t' a' ↔ t = t' ∧ a = a' :=
  ⟨fun h => ⟨by simpa using congrArg topNibble h, by simpa using congrArg fieldNNN h⟩, fun h => h.1 ▸ h.2 ▸ rfl⟩

theorem encodeXI_inj {t t' x x' : Nibble} {b b' : Byte} :
    encodeXI t x b = encodeXI t' x' b' ↔ t = t' ∧ x = x' ∧ b = b' :=
  ⟨fun h => ⟨by simpa using congrArg topNibble h, by simpa using congrArg fieldX h, by simpa using congrArg fieldNN h⟩,
    fun h => h.1 ▸ h.2.1 ▸ h.2.2 ▸ rfl⟩

theorem encodeXYN_inj {t t' x x' y y' n n' : Nibble} :
    encodeXYN t x y n = encodeXYN t' x' y' n' ↔ t = t' ∧ x = x' ∧ y = y' ∧ n = n' :=
  ⟨fun h => ⟨by simpa using congrArg topNibble h, by simpa using congrArg fieldX h, by simpa using congrArg fieldY h,
    by simpa using congrArg fieldN h⟩, fun h => h.1 ▸ h.2.1 ▸ h.2.2.1 ▸ h.2.2.2 ▸ rfl⟩

/-! ### A row matched, field by field -/

theorem OpcodeRow.matches_F000 {op p : Word} {b : Word → Instr} (hp : fieldNNN p = 0) :
    OpcodeRow.matches ⟨0xF000#16, p, b⟩ op = true ↔ topNibble op = topNibble p := by
  rw [OpcodeRow.matches, and_F000, beq_iff_eq]
  nth_rw 1 [← encodeA_fields p]
  simp [encodeA_inj, hp]

theorem OpcodeRow.matches_F00F {op p : Word} {b : Word → Instr} (hx : fieldX p = 0) (hy : fieldY p = 0) :
    OpcodeRow.matches ⟨0xF00F#16, p, b⟩ op = true ↔ topNibble op = topNibble p ∧ fieldN op = fieldN p := by
  rw [OpcodeRow.matches, and_F00F, beq_iff_eq]
  nth_rw 1 [← encodeXYN_fields p]
  simp [encodeXYN_inj, hx, hy]

theorem OpcodeRow.matches_F0FF {op p : Word} {b : Word → Instr} (hx : fieldX p = 0) :
    OpcodeRow.matches ⟨0xF0FF#16, p, b⟩ op = true ↔ topNibble op = topNibble p ∧ fieldNN op = fieldNN p := by
  rw [OpcodeRow.matches, and_F0FF, beq_iff_eq]
  nth_rw 1 [← encodeXI_fields p]
  simp [encodeXI_inj, hx]

theorem OpcodeRow.matches_FFFF {op p : Word} {b : Word → Instr} :
    OpcodeRow.matches ⟨0xFFFF#16, p, b⟩ op = true ↔ op = p := by
  rw [OpcodeRow.matches, and_FFFF, beq_iff_eq]

/-- The first of some rows that a word matches, built. -/
def decodeRows (rows : List OpcodeRow) (op : Word) : Except DecodeReject Instr :=
  match rows.find? (fun r => r.matches op) with
  | some r => .ok (r.build op)
  | none => .error (.noRow op)

theorem decodeRows_cons (r : OpcodeRow) (rows : List OpcodeRow) (op : Word) :
    decodeRows (r :: rows) op = if r.matches op then .ok (r.build op) else decodeRows rows op := by
  rw [decodeRows, List.find?_cons, decodeRows]
  cases r.matches op <;> rfl

/-- What decoding a word comes to: the table's rows tried in order, each test in terms of the word's fields. -/
theorem decodeWord_chain (op : Word) : decodeWord op =
    if op = 0x00E0 then .ok .cls else
    if op = 0x00EE then .ok .ret else
    if topNibble op = 0x0 then .ok (.sys (fieldNNN op)) else
    if topNibble op = 0x1 then .ok (.jp (fieldNNN op)) else
    if topNibble op = 0x2 then .ok (.call (fieldNNN op)) else
    if topNibble op = 0x3 then .ok (.seImm (fieldX op) (fieldNN op)) else
    if topNibble op = 0x4 then .ok (.sneImm (fieldX op) (fieldNN op)) else
    if topNibble op = 0x5 ∧ fieldN op = 0x0 then .ok (.seReg (fieldX op) (fieldY op)) else
    if topNibble op = 0x6 then .ok (.ldImm (fieldX op) (fieldNN op)) else
    if topNibble op = 0x7 then .ok (.addImm (fieldX op) (fieldNN op)) else
    if topNibble op = 0x8 ∧ fieldN op = 0x0 then .ok (.ldReg (fieldX op) (fieldY op)) else
    if topNibble op = 0x8 ∧ fieldN op = 0x1 then .ok (.orReg (fieldX op) (fieldY op)) else
    if topNibble op = 0x8 ∧ fieldN op = 0x2 then .ok (.andReg (fieldX op) (fieldY op)) else
    if topNibble op = 0x8 ∧ fieldN op = 0x3 then .ok (.xorReg (fieldX op) (fieldY op)) else
    if topNibble op = 0x8 ∧ fieldN op = 0x4 then .ok (.addReg (fieldX op) (fieldY op)) else
    if topNibble op = 0x8 ∧ fieldN op = 0x5 then .ok (.sub (fieldX op) (fieldY op)) else
    if topNibble op = 0x8 ∧ fieldN op = 0x6 then .ok (.shr (fieldX op) (fieldY op)) else
    if topNibble op = 0x8 ∧ fieldN op = 0x7 then .ok (.subn (fieldX op) (fieldY op)) else
    if topNibble op = 0x8 ∧ fieldN op = 0xE then .ok (.shl (fieldX op) (fieldY op)) else
    if topNibble op = 0x9 ∧ fieldN op = 0x0 then .ok (.sneReg (fieldX op) (fieldY op)) else
    if topNibble op = 0xA then .ok (.ldI (fieldNNN op)) else
    if topNibble op = 0xB then .ok (.jpV0 (fieldNNN op)) else
    if topNibble op = 0xC then .ok (.rnd (fieldX op) (fieldNN op)) else
    if topNibble op = 0xD then .ok (.drw (fieldX op) (fieldY op) (fieldN op)) else
    if topNibble op = 0xE ∧ fieldNN op = 0x9E then .ok (.skp (fieldX op)) else
    if topNibble op = 0xE ∧ fieldNN op = 0xA1 then .ok (.sknp (fieldX op)) else
    if topNibble op = 0xF ∧ fieldNN op = 0x07 then .ok (.ldVxDt (fieldX op)) else
    if topNibble op = 0xF ∧ fieldNN op = 0x0A then .ok (.ldVxK (fieldX op)) else
    if topNibble op = 0xF ∧ fieldNN op = 0x15 then .ok (.ldDtVx (fieldX op)) else
    if topNibble op = 0xF ∧ fieldNN op = 0x18 then .ok (.ldStVx (fieldX op)) else
    if topNibble op = 0xF ∧ fieldNN op = 0x1E then .ok (.addI (fieldX op)) else
    if topNibble op = 0xF ∧ fieldNN op = 0x29 then .ok (.ldF (fieldX op)) else
    if topNibble op = 0xF ∧ fieldNN op = 0x33 then .ok (.ldB (fieldX op)) else
    if topNibble op = 0xF ∧ fieldNN op = 0x55 then .ok (.ldMemVx (fieldX op)) else
    if topNibble op = 0xF ∧ fieldNN op = 0x65 then .ok (.ldVxMem (fieldX op)) else
    .error (.noRow op) := by
  rw [show decodeWord op = decodeRows (opcodeRows1 ++ (opcodeRows2 ++ opcodeRows3)) op from rfl]
  simp only [opcodeRows1, opcodeRows2, opcodeRows3, List.cons_append, List.nil_append, decodeRows_cons]
  iterate 35
    refine if_congr ?_ rfl ?_
    · first
        | exact OpcodeRow.matches_F000 (by decide)
        | exact OpcodeRow.matches_F00F (by decide) (by decide)
        | exact OpcodeRow.matches_F0FF (by decide)
        | exact OpcodeRow.matches_FFFF
  rfl

end Sys2Proof
end

