-- ==== Sys2Proof/Laws/State.lean ====
section
/-! SUPPORT. One lemma per field per update of the state, and per observation (a register, a byte of memory, a key) that an
update leaves alone. All hold by unfolding; later proofs cite them through simp and never unfold an update. -/

namespace Sys2Proof.Machine

/-! ### goto -/

@[simp] theorem State.goto_v (s : State) (a : Word) : (s.goto a).v = s.v := rfl
@[simp] theorem State.goto_i (s : State) (a : Word) : (s.goto a).i = s.i := rfl
@[simp] theorem State.goto_pc (s : State) (a : Word) : (s.goto a).pc = a := rfl
@[simp] theorem State.goto_sp (s : State) (a : Word) : (s.goto a).sp = s.sp := rfl
@[simp] theorem State.goto_stack (s : State) (a : Word) : (s.goto a).stack = s.stack := rfl
@[simp] theorem State.goto_dt (s : State) (a : Word) : (s.goto a).dt = s.dt := rfl
@[simp] theorem State.goto_st (s : State) (a : Word) : (s.goto a).st = s.st := rfl
@[simp] theorem State.goto_mem (s : State) (a : Word) : (s.goto a).mem = s.mem := rfl
@[simp] theorem State.goto_fb (s : State) (a : Word) : (s.goto a).fb = s.fb := rfl
@[simp] theorem State.goto_dirty (s : State) (a : Word) : (s.goto a).dirty = s.dirty := rfl
@[simp] theorem State.goto_keys (s : State) (a : Word) : (s.goto a).keys = s.keys := rfl
@[simp] theorem State.goto_wait (s : State) (a : Word) : (s.goto a).wait = s.wait := rfl
@[simp] theorem State.goto_fault (s : State) (a : Word) : (s.goto a).fault = s.fault := rfl
@[simp] theorem State.goto_halted (s : State) (a : Word) : (s.goto a).halted = s.halted := rfl
@[simp] theorem State.goto_cfg (s : State) (a : Word) : (s.goto a).cfg = s.cfg := rfl
@[simp] theorem State.goto_draws (s : State) (a : Word) : (s.goto a).draws = s.draws := rfl
@[simp] theorem State.goto_loadOpen (s : State) (a : Word) : (s.goto a).loadOpen = s.loadOpen := rfl
@[simp] theorem State.goto_pending (s : State) (a : Word) : (s.goto a).pending = s.pending := rfl
@[simp] theorem State.goto_reg (s : State) (a : Word) (y : Nibble) : (s.goto a).reg y = s.reg y := rfl
@[simp] theorem State.goto_memRead (s : State) (a : Word) (n : Nat) : (s.goto a).memRead n = s.memRead n := rfl
@[simp] theorem State.goto_keyDown (s : State) (a : Word) (j : Nibble) : (s.goto a).keyDown j = s.keyDown j := rfl

/-! ### advance -/

@[simp] theorem State.advance_v (s : State) : (s.advance).v = s.v := rfl
@[simp] theorem State.advance_i (s : State) : (s.advance).i = s.i := rfl
@[simp] theorem State.advance_pc (s : State) : (s.advance).pc = s.pc + 2 := rfl
@[simp] theorem State.advance_sp (s : State) : (s.advance).sp = s.sp := rfl
@[simp] theorem State.advance_stack (s : State) : (s.advance).stack = s.stack := rfl
@[simp] theorem State.advance_dt (s : State) : (s.advance).dt = s.dt := rfl
@[simp] theorem State.advance_st (s : State) : (s.advance).st = s.st := rfl
@[simp] theorem State.advance_mem (s : State) : (s.advance).mem = s.mem := rfl
@[simp] theorem State.advance_fb (s : State) : (s.advance).fb = s.fb := rfl
@[simp] theorem State.advance_dirty (s : State) : (s.advance).dirty = s.dirty := rfl
@[simp] theorem State.advance_keys (s : State) : (s.advance).keys = s.keys := rfl
@[simp] theorem State.advance_wait (s : State) : (s.advance).wait = s.wait := rfl
@[simp] theorem State.advance_fault (s : State) : (s.advance).fault = s.fault := rfl
@[simp] theorem State.advance_halted (s : State) : (s.advance).halted = s.halted := rfl
@[simp] theorem State.advance_cfg (s : State) : (s.advance).cfg = s.cfg := rfl
@[simp] theorem State.advance_draws (s : State) : (s.advance).draws = s.draws := rfl
@[simp] theorem State.advance_loadOpen (s : State) : (s.advance).loadOpen = s.loadOpen := rfl
@[simp] theorem State.advance_pending (s : State) : (s.advance).pending = s.pending := rfl
@[simp] theorem State.advance_reg (s : State) (y : Nibble) : (s.advance).reg y = s.reg y := rfl
@[simp] theorem State.advance_memRead (s : State) (n : Nat) : (s.advance).memRead n = s.memRead n := rfl
@[simp] theorem State.advance_keyDown (s : State) (j : Nibble) : (s.advance).keyDown j = s.keyDown j := rfl

/-! ### latch -/

@[simp] theorem State.latch_v (s : State) (k : FaultKind) : (s.latch k).v = s.v := rfl
@[simp] theorem State.latch_i (s : State) (k : FaultKind) : (s.latch k).i = s.i := rfl
@[simp] theorem State.latch_pc (s : State) (k : FaultKind) : (s.latch k).pc = s.pc := rfl
@[simp] theorem State.latch_sp (s : State) (k : FaultKind) : (s.latch k).sp = s.sp := rfl
@[simp] theorem State.latch_stack (s : State) (k : FaultKind) : (s.latch k).stack = s.stack := rfl
@[simp] theorem State.latch_dt (s : State) (k : FaultKind) : (s.latch k).dt = s.dt := rfl
@[simp] theorem State.latch_st (s : State) (k : FaultKind) : (s.latch k).st = s.st := rfl
@[simp] theorem State.latch_mem (s : State) (k : FaultKind) : (s.latch k).mem = s.mem := rfl
@[simp] theorem State.latch_fb (s : State) (k : FaultKind) : (s.latch k).fb = s.fb := rfl
@[simp] theorem State.latch_dirty (s : State) (k : FaultKind) : (s.latch k).dirty = s.dirty := rfl
@[simp] theorem State.latch_keys (s : State) (k : FaultKind) : (s.latch k).keys = s.keys := rfl
@[simp] theorem State.latch_wait (s : State) (k : FaultKind) : (s.latch k).wait = s.wait := rfl
@[simp] theorem State.latch_fault (s : State) (k : FaultKind) : (s.latch k).fault = some k := rfl
@[simp] theorem State.latch_halted (s : State) (k : FaultKind) : (s.latch k).halted = true := rfl
@[simp] theorem State.latch_cfg (s : State) (k : FaultKind) : (s.latch k).cfg = s.cfg := rfl
@[simp] theorem State.latch_draws (s : State) (k : FaultKind) : (s.latch k).draws = s.draws := rfl
@[simp] theorem State.latch_loadOpen (s : State) (k : FaultKind) : (s.latch k).loadOpen = s.loadOpen := rfl
@[simp] theorem State.latch_pending (s : State) (k : FaultKind) : (s.latch k).pending = s.pending := rfl
@[simp] theorem State.latch_reg (s : State) (k : FaultKind) (y : Nibble) : (s.latch k).reg y = s.reg y := rfl
@[simp] theorem State.latch_memRead (s : State) (k : FaultKind) (n : Nat) : (s.latch k).memRead n = s.memRead n := rfl
@[simp] theorem State.latch_keyDown (s : State) (k : FaultKind) (j : Nibble) : (s.latch k).keyDown j = s.keyDown j := rfl

/-! ### setReg -/

@[simp] theorem State.setReg_v (s : State) (x : Nibble) (b : Byte) : (s.setReg x b).v = s.v.set x.toNat b := rfl
@[simp] theorem State.setReg_i (s : State) (x : Nibble) (b : Byte) : (s.setReg x b).i = s.i := rfl
@[simp] theorem State.setReg_pc (s : State) (x : Nibble) (b : Byte) : (s.setReg x b).pc = s.pc := rfl
@[simp] theorem State.setReg_sp (s : State) (x : Nibble) (b : Byte) : (s.setReg x b).sp = s.sp := rfl
@[simp] theorem State.setReg_stack (s : State) (x : Nibble) (b : Byte) : (s.setReg x b).stack = s.stack := rfl
@[simp] theorem State.setReg_dt (s : State) (x : Nibble) (b : Byte) : (s.setReg x b).dt = s.dt := rfl
@[simp] theorem State.setReg_st (s : State) (x : Nibble) (b : Byte) : (s.setReg x b).st = s.st := rfl
@[simp] theorem State.setReg_mem (s : State) (x : Nibble) (b : Byte) : (s.setReg x b).mem = s.mem := rfl
@[simp] theorem State.setReg_fb (s : State) (x : Nibble) (b : Byte) : (s.setReg x b).fb = s.fb := rfl
@[simp] theorem State.setReg_dirty (s : State) (x : Nibble) (b : Byte) : (s.setReg x b).dirty = s.dirty := rfl
@[simp] theorem State.setReg_keys (s : State) (x : Nibble) (b : Byte) : (s.setReg x b).keys = s.keys := rfl
@[simp] theorem State.setReg_wait (s : State) (x : Nibble) (b : Byte) : (s.setReg x b).wait = s.wait := rfl
@[simp] theorem State.setReg_fault (s : State) (x : Nibble) (b : Byte) : (s.setReg x b).fault = s.fault := rfl
@[simp] theorem State.setReg_halted (s : State) (x : Nibble) (b : Byte) : (s.setReg x b).halted = s.halted := rfl
@[simp] theorem State.setReg_cfg (s : State) (x : Nibble) (b : Byte) : (s.setReg x b).cfg = s.cfg := rfl
@[simp] theorem State.setReg_draws (s : State) (x : Nibble) (b : Byte) : (s.setReg x b).draws = s.draws := rfl
@[simp] theorem State.setReg_loadOpen (s : State) (x : Nibble) (b : Byte) : (s.setReg x b).loadOpen = s.loadOpen := rfl
@[simp] theorem State.setReg_pending (s : State) (x : Nibble) (b : Byte) : (s.setReg x b).pending = s.pending := rfl
@[simp] theorem State.setReg_memRead (s : State) (x : Nibble) (b : Byte) (n : Nat) : (s.setReg x b).memRead n = s.memRead n := rfl
@[simp] theorem State.setReg_keyDown (s : State) (x : Nibble) (b : Byte) (j : Nibble) : (s.setReg x b).keyDown j = s.keyDown j := rfl

/-! ### setFlag -/

@[simp] theorem State.setFlag_v (s : State) (b : Bool) : (s.setFlag b).v = s.v.set flagReg.toNat (flagByte b) := rfl
@[simp] theorem State.setFlag_i (s : State) (b : Bool) : (s.setFlag b).i = s.i := rfl
@[simp] theorem State.setFlag_pc (s : State) (b : Bool) : (s.setFlag b).pc = s.pc := rfl
@[simp] theorem State.setFlag_sp (s : State) (b : Bool) : (s.setFlag b).sp = s.sp := rfl
@[simp] theorem State.setFlag_stack (s : State) (b : Bool) : (s.setFlag b).stack = s.stack := rfl
@[simp] theorem State.setFlag_dt (s : State) (b : Bool) : (s.setFlag b).dt = s.dt := rfl
@[simp] theorem State.setFlag_st (s : State) (b : Bool) : (s.setFlag b).st = s.st := rfl
@[simp] theorem State.setFlag_mem (s : State) (b : Bool) : (s.setFlag b).mem = s.mem := rfl
@[simp] theorem State.setFlag_fb (s : State) (b : Bool) : (s.setFlag b).fb = s.fb := rfl
@[simp] theorem State.setFlag_dirty (s : State) (b : Bool) : (s.setFlag b).dirty = s.dirty := rfl
@[simp] theorem State.setFlag_keys (s : State) (b : Bool) : (s.setFlag b).keys = s.keys := rfl
@[simp] theorem State.setFlag_wait (s : State) (b : Bool) : (s.setFlag b).wait = s.wait := rfl
@[simp] theorem State.setFlag_fault (s : State) (b : Bool) : (s.setFlag b).fault = s.fault := rfl
@[simp] theorem State.setFlag_halted (s : State) (b : Bool) : (s.setFlag b).halted = s.halted := rfl
@[simp] theorem State.setFlag_cfg (s : State) (b : Bool) : (s.setFlag b).cfg = s.cfg := rfl
@[simp] theorem State.setFlag_draws (s : State) (b : Bool) : (s.setFlag b).draws = s.draws := rfl
@[simp] theorem State.setFlag_loadOpen (s : State) (b : Bool) : (s.setFlag b).loadOpen = s.loadOpen := rfl
@[simp] theorem State.setFlag_pending (s : State) (b : Bool) : (s.setFlag b).pending = s.pending := rfl
@[simp] theorem State.setFlag_memRead (s : State) (b : Bool) (n : Nat) : (s.setFlag b).memRead n = s.memRead n := rfl
@[simp] theorem State.setFlag_keyDown (s : State) (b : Bool) (j : Nibble) : (s.setFlag b).keyDown j = s.keyDown j := rfl

/-! ### setRegBlock -/

@[simp] theorem State.setRegBlock_v (s : State) (bs : List Byte) : (s.setRegBlock bs).v = setRegsFrom s.v 0 bs := rfl
@[simp] theorem State.setRegBlock_i (s : State) (bs : List Byte) : (s.setRegBlock bs).i = s.i := rfl
@[simp] theorem State.setRegBlock_pc (s : State) (bs : List Byte) : (s.setRegBlock bs).pc = s.pc := rfl
@[simp] theorem State.setRegBlock_sp (s : State) (bs : List Byte) : (s.setRegBlock bs).sp = s.sp := rfl
@[simp] theorem State.setRegBlock_stack (s : State) (bs : List Byte) : (s.setRegBlock bs).stack = s.stack := rfl
@[simp] theorem State.setRegBlock_dt (s : State) (bs : List Byte) : (s.setRegBlock bs).dt = s.dt := rfl
@[simp] theorem State.setRegBlock_st (s : State) (bs : List Byte) : (s.setRegBlock bs).st = s.st := rfl
@[simp] theorem State.setRegBlock_mem (s : State) (bs : List Byte) : (s.setRegBlock bs).mem = s.mem := rfl
@[simp] theorem State.setRegBlock_fb (s : State) (bs : List Byte) : (s.setRegBlock bs).fb = s.fb := rfl
@[simp] theorem State.setRegBlock_dirty (s : State) (bs : List Byte) : (s.setRegBlock bs).dirty = s.dirty := rfl
@[simp] theorem State.setRegBlock_keys (s : State) (bs : List Byte) : (s.setRegBlock bs).keys = s.keys := rfl
@[simp] theorem State.setRegBlock_wait (s : State) (bs : List Byte) : (s.setRegBlock bs).wait = s.wait := rfl
@[simp] theorem State.setRegBlock_fault (s : State) (bs : List Byte) : (s.setRegBlock bs).fault = s.fault := rfl
@[simp] theorem State.setRegBlock_halted (s : State) (bs : List Byte) : (s.setRegBlock bs).halted = s.halted := rfl
@[simp] theorem State.setRegBlock_cfg (s : State) (bs : List Byte) : (s.setRegBlock bs).cfg = s.cfg := rfl
@[simp] theorem State.setRegBlock_draws (s : State) (bs : List Byte) : (s.setRegBlock bs).draws = s.draws := rfl
@[simp] theorem State.setRegBlock_loadOpen (s : State) (bs : List Byte) : (s.setRegBlock bs).loadOpen = s.loadOpen := rfl
@[simp] theorem State.setRegBlock_pending (s : State) (bs : List Byte) : (s.setRegBlock bs).pending = s.pending := rfl
@[simp] theorem State.setRegBlock_memRead (s : State) (bs : List Byte) (n : Nat) : (s.setRegBlock bs).memRead n = s.memRead n := rfl
@[simp] theorem State.setRegBlock_keyDown (s : State) (bs : List Byte) (j : Nibble) : (s.setRegBlock bs).keyDown j = s.keyDown j := rfl

/-! ### setIndex -/

@[simp] theorem State.setIndex_v (s : State) (a : Word) : (s.setIndex a).v = s.v := rfl
@[simp] theorem State.setIndex_i (s : State) (a : Word) : (s.setIndex a).i = a := rfl
@[simp] theorem State.setIndex_pc (s : State) (a : Word) : (s.setIndex a).pc = s.pc := rfl
@[simp] theorem State.setIndex_sp (s : State) (a : Word) : (s.setIndex a).sp = s.sp := rfl
@[simp] theorem State.setIndex_stack (s : State) (a : Word) : (s.setIndex a).stack = s.stack := rfl
@[simp] theorem State.setIndex_dt (s : State) (a : Word) : (s.setIndex a).dt = s.dt := rfl
@[simp] theorem State.setIndex_st (s : State) (a : Word) : (s.setIndex a).st = s.st := rfl
@[simp] theorem State.setIndex_mem (s : State) (a : Word) : (s.setIndex a).mem = s.mem := rfl
@[simp] theorem State.setIndex_fb (s : State) (a : Word) : (s.setIndex a).fb = s.fb := rfl
@[simp] theorem State.setIndex_dirty (s : State) (a : Word) : (s.setIndex a).dirty = s.dirty := rfl
@[simp] theorem State.setIndex_keys (s : State) (a : Word) : (s.setIndex a).keys = s.keys := rfl
@[simp] theorem State.setIndex_wait (s : State) (a : Word) : (s.setIndex a).wait = s.wait := rfl
@[simp] theorem State.setIndex_fault (s : State) (a : Word) : (s.setIndex a).fault = s.fault := rfl
@[simp] theorem State.setIndex_halted (s : State) (a : Word) : (s.setIndex a).halted = s.halted := rfl
@[simp] theorem State.setIndex_cfg (s : State) (a : Word) : (s.setIndex a).cfg = s.cfg := rfl
@[simp] theorem State.setIndex_draws (s : State) (a : Word) : (s.setIndex a).draws = s.draws := rfl
@[simp] theorem State.setIndex_loadOpen (s : State) (a : Word) : (s.setIndex a).loadOpen = s.loadOpen := rfl
@[simp] theorem State.setIndex_pending (s : State) (a : Word) : (s.setIndex a).pending = s.pending := rfl
@[simp] theorem State.setIndex_reg (s : State) (a : Word) (y : Nibble) : (s.setIndex a).reg y = s.reg y := rfl
@[simp] theorem State.setIndex_memRead (s : State) (a : Word) (n : Nat) : (s.setIndex a).memRead n = s.memRead n := rfl
@[simp] theorem State.setIndex_keyDown (s : State) (a : Word) (j : Nibble) : (s.setIndex a).keyDown j = s.keyDown j := rfl

/-! ### countDraw -/

@[simp] theorem State.countDraw_v (s : State) : (s.countDraw).v = s.v := rfl
@[simp] theorem State.countDraw_i (s : State) : (s.countDraw).i = s.i := rfl
@[simp] theorem State.countDraw_pc (s : State) : (s.countDraw).pc = s.pc := rfl
@[simp] theorem State.countDraw_sp (s : State) : (s.countDraw).sp = s.sp := rfl
@[simp] theorem State.countDraw_stack (s : State) : (s.countDraw).stack = s.stack := rfl
@[simp] theorem State.countDraw_dt (s : State) : (s.countDraw).dt = s.dt := rfl
@[simp] theorem State.countDraw_st (s : State) : (s.countDraw).st = s.st := rfl
@[simp] theorem State.countDraw_mem (s : State) : (s.countDraw).mem = s.mem := rfl
@[simp] theorem State.countDraw_fb (s : State) : (s.countDraw).fb = s.fb := rfl
@[simp] theorem State.countDraw_dirty (s : State) : (s.countDraw).dirty = s.dirty := rfl
@[simp] theorem State.countDraw_keys (s : State) : (s.countDraw).keys = s.keys := rfl
@[simp] theorem State.countDraw_wait (s : State) : (s.countDraw).wait = s.wait := rfl
@[simp] theorem State.countDraw_fault (s : State) : (s.countDraw).fault = s.fault := rfl
@[simp] theorem State.countDraw_halted (s : State) : (s.countDraw).halted = s.halted := rfl
@[simp] theorem State.countDraw_cfg (s : State) : (s.countDraw).cfg = s.cfg := rfl
@[simp] theorem State.countDraw_draws (s : State) : (s.countDraw).draws = s.draws + 1 := rfl
@[simp] theorem State.countDraw_loadOpen (s : State) : (s.countDraw).loadOpen = s.loadOpen := rfl
@[simp] theorem State.countDraw_pending (s : State) : (s.countDraw).pending = s.pending := rfl
@[simp] theorem State.countDraw_reg (s : State) (y : Nibble) : (s.countDraw).reg y = s.reg y := rfl
@[simp] theorem State.countDraw_memRead (s : State) (n : Nat) : (s.countDraw).memRead n = s.memRead n := rfl
@[simp] theorem State.countDraw_keyDown (s : State) (j : Nibble) : (s.countDraw).keyDown j = s.keyDown j := rfl

/-! ### setDt -/

@[simp] theorem State.setDt_v (s : State) (b : Byte) : (s.setDt b).v = s.v := rfl
@[simp] theorem State.setDt_i (s : State) (b : Byte) : (s.setDt b).i = s.i := rfl
@[simp] theorem State.setDt_pc (s : State) (b : Byte) : (s.setDt b).pc = s.pc := rfl
@[simp] theorem State.setDt_sp (s : State) (b : Byte) : (s.setDt b).sp = s.sp := rfl
@[simp] theorem State.setDt_stack (s : State) (b : Byte) : (s.setDt b).stack = s.stack := rfl
@[simp] theorem State.setDt_dt (s : State) (b : Byte) : (s.setDt b).dt = b := rfl
@[simp] theorem State.setDt_st (s : State) (b : Byte) : (s.setDt b).st = s.st := rfl
@[simp] theorem State.setDt_mem (s : State) (b : Byte) : (s.setDt b).mem = s.mem := rfl
@[simp] theorem State.setDt_fb (s : State) (b : Byte) : (s.setDt b).fb = s.fb := rfl
@[simp] theorem State.setDt_dirty (s : State) (b : Byte) : (s.setDt b).dirty = s.dirty := rfl
@[simp] theorem State.setDt_keys (s : State) (b : Byte) : (s.setDt b).keys = s.keys := rfl
@[simp] theorem State.setDt_wait (s : State) (b : Byte) : (s.setDt b).wait = s.wait := rfl
@[simp] theorem State.setDt_fault (s : State) (b : Byte) : (s.setDt b).fault = s.fault := rfl
@[simp] theorem State.setDt_halted (s : State) (b : Byte) : (s.setDt b).halted = s.halted := rfl
@[simp] theorem State.setDt_cfg (s : State) (b : Byte) : (s.setDt b).cfg = s.cfg := rfl
@[simp] theorem State.setDt_draws (s : State) (b : Byte) : (s.setDt b).draws = s.draws := rfl
@[simp] theorem State.setDt_loadOpen (s : State) (b : Byte) : (s.setDt b).loadOpen = s.loadOpen := rfl
@[simp] theorem State.setDt_pending (s : State) (b : Byte) : (s.setDt b).pending = s.pending := rfl
@[simp] theorem State.setDt_reg (s : State) (b : Byte) (y : Nibble) : (s.setDt b).reg y = s.reg y := rfl
@[simp] theorem State.setDt_memRead (s : State) (b : Byte) (n : Nat) : (s.setDt b).memRead n = s.memRead n := rfl
@[simp] theorem State.setDt_keyDown (s : State) (b : Byte) (j : Nibble) : (s.setDt b).keyDown j = s.keyDown j := rfl

/-! ### setSt -/

@[simp] theorem State.setSt_v (s : State) (b : Byte) : (s.setSt b).v = s.v := rfl
@[simp] theorem State.setSt_i (s : State) (b : Byte) : (s.setSt b).i = s.i := rfl
@[simp] theorem State.setSt_pc (s : State) (b : Byte) : (s.setSt b).pc = s.pc := rfl
@[simp] theorem State.setSt_sp (s : State) (b : Byte) : (s.setSt b).sp = s.sp := rfl
@[simp] theorem State.setSt_stack (s : State) (b : Byte) : (s.setSt b).stack = s.stack := rfl
@[simp] theorem State.setSt_dt (s : State) (b : Byte) : (s.setSt b).dt = s.dt := rfl
@[simp] theorem State.setSt_st (s : State) (b : Byte) : (s.setSt b).st = b := rfl
@[simp] theorem State.setSt_mem (s : State) (b : Byte) : (s.setSt b).mem = s.mem := rfl
@[simp] theorem State.setSt_fb (s : State) (b : Byte) : (s.setSt b).fb = s.fb := rfl
@[simp] theorem State.setSt_dirty (s : State) (b : Byte) : (s.setSt b).dirty = s.dirty := rfl
@[simp] theorem State.setSt_keys (s : State) (b : Byte) : (s.setSt b).keys = s.keys := rfl
@[simp] theorem State.setSt_wait (s : State) (b : Byte) : (s.setSt b).wait = s.wait := rfl
@[simp] theorem State.setSt_fault (s : State) (b : Byte) : (s.setSt b).fault = s.fault := rfl
@[simp] theorem State.setSt_halted (s : State) (b : Byte) : (s.setSt b).halted = s.halted := rfl
@[simp] theorem State.setSt_cfg (s : State) (b : Byte) : (s.setSt b).cfg = s.cfg := rfl
@[simp] theorem State.setSt_draws (s : State) (b : Byte) : (s.setSt b).draws = s.draws := rfl
@[simp] theorem State.setSt_loadOpen (s : State) (b : Byte) : (s.setSt b).loadOpen = s.loadOpen := rfl
@[simp] theorem State.setSt_pending (s : State) (b : Byte) : (s.setSt b).pending = s.pending := rfl
@[simp] theorem State.setSt_reg (s : State) (b : Byte) (y : Nibble) : (s.setSt b).reg y = s.reg y := rfl
@[simp] theorem State.setSt_memRead (s : State) (b : Byte) (n : Nat) : (s.setSt b).memRead n = s.memRead n := rfl
@[simp] theorem State.setSt_keyDown (s : State) (b : Byte) (j : Nibble) : (s.setSt b).keyDown j = s.keyDown j := rfl

/-! ### setWait -/

@[simp] theorem State.setWait_v (s : State) (w : Wait) : (s.setWait w).v = s.v := rfl
@[simp] theorem State.setWait_i (s : State) (w : Wait) : (s.setWait w).i = s.i := rfl
@[simp] theorem State.setWait_pc (s : State) (w : Wait) : (s.setWait w).pc = s.pc := rfl
@[simp] theorem State.setWait_sp (s : State) (w : Wait) : (s.setWait w).sp = s.sp := rfl
@[simp] theorem State.setWait_stack (s : State) (w : Wait) : (s.setWait w).stack = s.stack := rfl
@[simp] theorem State.setWait_dt (s : State) (w : Wait) : (s.setWait w).dt = s.dt := rfl
@[simp] theorem State.setWait_st (s : State) (w : Wait) : (s.setWait w).st = s.st := rfl
@[simp] theorem State.setWait_mem (s : State) (w : Wait) : (s.setWait w).mem = s.mem := rfl
@[simp] theorem State.setWait_fb (s : State) (w : Wait) : (s.setWait w).fb = s.fb := rfl
@[simp] theorem State.setWait_dirty (s : State) (w : Wait) : (s.setWait w).dirty = s.dirty := rfl
@[simp] theorem State.setWait_keys (s : State) (w : Wait) : (s.setWait w).keys = s.keys := rfl
@[simp] theorem State.setWait_wait (s : State) (w : Wait) : (s.setWait w).wait = w := rfl
@[simp] theorem State.setWait_fault (s : State) (w : Wait) : (s.setWait w).fault = s.fault := rfl
@[simp] theorem State.setWait_halted (s : State) (w : Wait) : (s.setWait w).halted = s.halted := rfl
@[simp] theorem State.setWait_cfg (s : State) (w : Wait) : (s.setWait w).cfg = s.cfg := rfl
@[simp] theorem State.setWait_draws (s : State) (w : Wait) : (s.setWait w).draws = s.draws := rfl
@[simp] theorem State.setWait_loadOpen (s : State) (w : Wait) : (s.setWait w).loadOpen = s.loadOpen := rfl
@[simp] theorem State.setWait_pending (s : State) (w : Wait) : (s.setWait w).pending = s.pending := rfl
@[simp] theorem State.setWait_reg (s : State) (w : Wait) (y : Nibble) : (s.setWait w).reg y = s.reg y := rfl
@[simp] theorem State.setWait_memRead (s : State) (w : Wait) (n : Nat) : (s.setWait w).memRead n = s.memRead n := rfl
@[simp] theorem State.setWait_keyDown (s : State) (w : Wait) (j : Nibble) : (s.setWait w).keyDown j = s.keyDown j := rfl

/-! ### setKey -/

@[simp] theorem State.setKey_v (s : State) (k : Nibble) (d : Bool) : (s.setKey k d).v = s.v := rfl
@[simp] theorem State.setKey_i (s : State) (k : Nibble) (d : Bool) : (s.setKey k d).i = s.i := rfl
@[simp] theorem State.setKey_pc (s : State) (k : Nibble) (d : Bool) : (s.setKey k d).pc = s.pc := rfl
@[simp] theorem State.setKey_sp (s : State) (k : Nibble) (d : Bool) : (s.setKey k d).sp = s.sp := rfl
@[simp] theorem State.setKey_stack (s : State) (k : Nibble) (d : Bool) : (s.setKey k d).stack = s.stack := rfl
@[simp] theorem State.setKey_dt (s : State) (k : Nibble) (d : Bool) : (s.setKey k d).dt = s.dt := rfl
@[simp] theorem State.setKey_st (s : State) (k : Nibble) (d : Bool) : (s.setKey k d).st = s.st := rfl
@[simp] theorem State.setKey_mem (s : State) (k : Nibble) (d : Bool) : (s.setKey k d).mem = s.mem := rfl
@[simp] theorem State.setKey_fb (s : State) (k : Nibble) (d : Bool) : (s.setKey k d).fb = s.fb := rfl
@[simp] theorem State.setKey_dirty (s : State) (k : Nibble) (d : Bool) : (s.setKey k d).dirty = s.dirty := rfl
@[simp] theorem State.setKey_keys (s : State) (k : Nibble) (d : Bool) : (s.setKey k d).keys = s.keys.set k.toNat d := rfl
@[simp] theorem State.setKey_wait (s : State) (k : Nibble) (d : Bool) : (s.setKey k d).wait = s.wait := rfl
@[simp] theorem State.setKey_fault (s : State) (k : Nibble) (d : Bool) : (s.setKey k d).fault = s.fault := rfl
@[simp] theorem State.setKey_halted (s : State) (k : Nibble) (d : Bool) : (s.setKey k d).halted = s.halted := rfl
@[simp] theorem State.setKey_cfg (s : State) (k : Nibble) (d : Bool) : (s.setKey k d).cfg = s.cfg := rfl
@[simp] theorem State.setKey_draws (s : State) (k : Nibble) (d : Bool) : (s.setKey k d).draws = s.draws := rfl
@[simp] theorem State.setKey_loadOpen (s : State) (k : Nibble) (d : Bool) : (s.setKey k d).loadOpen = s.loadOpen := rfl
@[simp] theorem State.setKey_pending (s : State) (k : Nibble) (d : Bool) : (s.setKey k d).pending = s.pending := rfl
@[simp] theorem State.setKey_reg (s : State) (k : Nibble) (d : Bool) (y : Nibble) : (s.setKey k d).reg y = s.reg y := rfl
@[simp] theorem State.setKey_memRead (s : State) (k : Nibble) (d : Bool) (n : Nat) : (s.setKey k d).memRead n = s.memRead n := rfl

/-! ### closeLoad -/

@[simp] theorem State.closeLoad_v (s : State) : (s.closeLoad).v = s.v := rfl
@[simp] theorem State.closeLoad_i (s : State) : (s.closeLoad).i = s.i := rfl
@[simp] theorem State.closeLoad_pc (s : State) : (s.closeLoad).pc = s.pc := rfl
@[simp] theorem State.closeLoad_sp (s : State) : (s.closeLoad).sp = s.sp := rfl
@[simp] theorem State.closeLoad_stack (s : State) : (s.closeLoad).stack = s.stack := rfl
@[simp] theorem State.closeLoad_dt (s : State) : (s.closeLoad).dt = s.dt := rfl
@[simp] theorem State.closeLoad_st (s : State) : (s.closeLoad).st = s.st := rfl
@[simp] theorem State.closeLoad_mem (s : State) : (s.closeLoad).mem = s.mem := rfl
@[simp] theorem State.closeLoad_fb (s : State) : (s.closeLoad).fb = s.fb := rfl
@[simp] theorem State.closeLoad_dirty (s : State) : (s.closeLoad).dirty = s.dirty := rfl
@[simp] theorem State.closeLoad_keys (s : State) : (s.closeLoad).keys = s.keys := rfl
@[simp] theorem State.closeLoad_wait (s : State) : (s.closeLoad).wait = s.wait := rfl
@[simp] theorem State.closeLoad_fault (s : State) : (s.closeLoad).fault = s.fault := rfl
@[simp] theorem State.closeLoad_halted (s : State) : (s.closeLoad).halted = s.halted := rfl
@[simp] theorem State.closeLoad_cfg (s : State) : (s.closeLoad).cfg = s.cfg := rfl
@[simp] theorem State.closeLoad_draws (s : State) : (s.closeLoad).draws = s.draws := rfl
@[simp] theorem State.closeLoad_loadOpen (s : State) : (s.closeLoad).loadOpen = false := rfl
@[simp] theorem State.closeLoad_pending (s : State) : (s.closeLoad).pending = s.pending := rfl
@[simp] theorem State.closeLoad_reg (s : State) (y : Nibble) : (s.closeLoad).reg y = s.reg y := rfl
@[simp] theorem State.closeLoad_memRead (s : State) (n : Nat) : (s.closeLoad).memRead n = s.memRead n := rfl
@[simp] theorem State.closeLoad_keyDown (s : State) (j : Nibble) : (s.closeLoad).keyDown j = s.keyDown j := rfl

/-! ### dequeue -/

@[simp] theorem State.dequeue_v (s : State) (r : List Transaction) : (s.dequeue r).v = s.v := rfl
@[simp] theorem State.dequeue_i (s : State) (r : List Transaction) : (s.dequeue r).i = s.i := rfl
@[simp] theorem State.dequeue_pc (s : State) (r : List Transaction) : (s.dequeue r).pc = s.pc := rfl
@[simp] theorem State.dequeue_sp (s : State) (r : List Transaction) : (s.dequeue r).sp = s.sp := rfl
@[simp] theorem State.dequeue_stack (s : State) (r : List Transaction) : (s.dequeue r).stack = s.stack := rfl
@[simp] theorem State.dequeue_dt (s : State) (r : List Transaction) : (s.dequeue r).dt = s.dt := rfl
@[simp] theorem State.dequeue_st (s : State) (r : List Transaction) : (s.dequeue r).st = s.st := rfl
@[simp] theorem State.dequeue_mem (s : State) (r : List Transaction) : (s.dequeue r).mem = s.mem := rfl
@[simp] theorem State.dequeue_fb (s : State) (r : List Transaction) : (s.dequeue r).fb = s.fb := rfl
@[simp] theorem State.dequeue_dirty (s : State) (r : List Transaction) : (s.dequeue r).dirty = s.dirty := rfl
@[simp] theorem State.dequeue_keys (s : State) (r : List Transaction) : (s.dequeue r).keys = s.keys := rfl
@[simp] theorem State.dequeue_wait (s : State) (r : List Transaction) : (s.dequeue r).wait = s.wait := rfl
@[simp] theorem State.dequeue_fault (s : State) (r : List Transaction) : (s.dequeue r).fault = s.fault := rfl
@[simp] theorem State.dequeue_halted (s : State) (r : List Transaction) : (s.dequeue r).halted = s.halted := rfl
@[simp] theorem State.dequeue_cfg (s : State) (r : List Transaction) : (s.dequeue r).cfg = s.cfg := rfl
@[simp] theorem State.dequeue_draws (s : State) (r : List Transaction) : (s.dequeue r).draws = s.draws := rfl
@[simp] theorem State.dequeue_loadOpen (s : State) (r : List Transaction) : (s.dequeue r).loadOpen = s.loadOpen := rfl
@[simp] theorem State.dequeue_pending (s : State) (r : List Transaction) : (s.dequeue r).pending = r := rfl
@[simp] theorem State.dequeue_reg (s : State) (r : List Transaction) (y : Nibble) : (s.dequeue r).reg y = s.reg y := rfl
@[simp] theorem State.dequeue_memRead (s : State) (r : List Transaction) (n : Nat) : (s.dequeue r).memRead n = s.memRead n := rfl
@[simp] theorem State.dequeue_keyDown (s : State) (r : List Transaction) (j : Nibble) : (s.dequeue r).keyDown j = s.keyDown j := rfl

/-! ### skipIf -/

@[simp] theorem State.skipIf_v (s : State) (t : Bool) : (s.skipIf t).v = s.v := by cases t <;> rfl
@[simp] theorem State.skipIf_i (s : State) (t : Bool) : (s.skipIf t).i = s.i := by cases t <;> rfl
@[simp] theorem State.skipIf_pc (s : State) (t : Bool) : (s.skipIf t).pc = if t then s.pc + 2 + 2 else s.pc + 2 := by
  cases t <;> rfl
@[simp] theorem State.skipIf_sp (s : State) (t : Bool) : (s.skipIf t).sp = s.sp := by cases t <;> rfl
@[simp] theorem State.skipIf_stack (s : State) (t : Bool) : (s.skipIf t).stack = s.stack := by cases t <;> rfl
@[simp] theorem State.skipIf_dt (s : State) (t : Bool) : (s.skipIf t).dt = s.dt := by cases t <;> rfl
@[simp] theorem State.skipIf_st (s : State) (t : Bool) : (s.skipIf t).st = s.st := by cases t <;> rfl
@[simp] theorem State.skipIf_mem (s : State) (t : Bool) : (s.skipIf t).mem = s.mem := by cases t <;> rfl
@[simp] theorem State.skipIf_fb (s : State) (t : Bool) : (s.skipIf t).fb = s.fb := by cases t <;> rfl
@[simp] theorem State.skipIf_dirty (s : State) (t : Bool) : (s.skipIf t).dirty = s.dirty := by cases t <;> rfl
@[simp] theorem State.skipIf_keys (s : State) (t : Bool) : (s.skipIf t).keys = s.keys := by cases t <;> rfl
@[simp] theorem State.skipIf_wait (s : State) (t : Bool) : (s.skipIf t).wait = s.wait := by cases t <;> rfl
@[simp] theorem State.skipIf_fault (s : State) (t : Bool) : (s.skipIf t).fault = s.fault := by cases t <;> rfl
@[simp] theorem State.skipIf_halted (s : State) (t : Bool) : (s.skipIf t).halted = s.halted := by cases t <;> rfl
@[simp] theorem State.skipIf_cfg (s : State) (t : Bool) : (s.skipIf t).cfg = s.cfg := by cases t <;> rfl
@[simp] theorem State.skipIf_draws (s : State) (t : Bool) : (s.skipIf t).draws = s.draws := by cases t <;> rfl
@[simp] theorem State.skipIf_loadOpen (s : State) (t : Bool) : (s.skipIf t).loadOpen = s.loadOpen := by cases t <;> rfl
@[simp] theorem State.skipIf_pending (s : State) (t : Bool) : (s.skipIf t).pending = s.pending := by cases t <;> rfl
@[simp] theorem State.skipIf_reg (s : State) (t : Bool) (y : Nibble) : (s.skipIf t).reg y = s.reg y := by cases t <;> rfl
@[simp] theorem State.skipIf_memRead (s : State) (t : Bool) (n : Nat) : (s.skipIf t).memRead n = s.memRead n := by
  cases t <;> rfl

/-! ### Registers read after a write -/

@[simp] theorem State.reg_setReg (s : State) (x y : Nibble) (b : Byte) :
    (s.setReg x b).reg y = if x = y then b else s.reg y := by
  simp only [State.reg, State.setReg, Vector.getElem_set, BitVec.toNat_inj]

@[simp] theorem State.reg_setFlag (s : State) (y : Nibble) (f : Bool) :
    (s.setFlag f).reg y = if flagReg = y then flagByte f else s.reg y :=
  State.reg_setReg s flagReg y (flagByte f)

@[simp] theorem State.setReg_self (s : State) (x : Nibble) : s.setReg x (s.reg x) = s := by
  simp [State.setReg, State.reg]

@[simp] theorem State.keyDown_setKey (s : State) (k j : Nibble) (d : Bool) :
    (s.setKey k d).keyDown j = if k = j then d else s.keyDown j := by
  simp only [State.keyDown, State.setKey, Vector.getElem_set, BitVec.toNat_inj]

/-- Two states with the same registers, read one by one, hold the same register file. -/
theorem State.v_ext {s t : State} (h : ∀ x, s.reg x = t.reg x) : s.v = t.v := by
  apply Vector.ext
  intro j hj
  have hx := h (BitVec.ofNat 4 j)
  simpa [State.reg, Nat.mod_eq_of_lt hj] using hx

end Sys2Proof.Machine
end

