-- ==== Sys2Proof/Laws/Display.lean ====
section
/-! SUPPORT. The framebuffer read pixel by pixel. -/

namespace Sys2Proof.Machine

@[simp] theorem Framebuffer.pixel_blank (x y : Nat) : Framebuffer.blank.pixel x y = false := by
  simp [Framebuffer.pixel, Framebuffer.blank]

/-- Coordinates count modulo the grid's sides. -/
@[simp] theorem Framebuffer.pixel_mod (fb : Framebuffer) (x y : Nat) : fb.pixel (x % 64) (y % 32) = fb.pixel x y := by
  simp only [Framebuffer.pixel, Nat.mod_mod]

/-- A toggle turns its own pixel over and leaves every other alone. -/
theorem Framebuffer.pixel_toggle (fb : Framebuffer) (x y px py : Nat) :
    (fb.toggle x y).pixel px py =
      if px % 64 = x % 64 ∧ py % 32 = y % 32 then !fb.pixel px py else fb.pixel px py := by
  by_cases hy : py % 32 = y % 32
  · by_cases hx : px % 64 = x % 64
    · simp [Framebuffer.pixel, Framebuffer.toggle, hx, hy]
    · simp [Framebuffer.pixel, Framebuffer.toggle, hx, Ne.symm hx, hy]
  · simp [Framebuffer.pixel, Framebuffer.toggle, hy, Ne.symm hy]

/-- A pixel by its row and column. -/
theorem Framebuffer.pixel_eq (fb : Framebuffer) (x y : Nat) (hx : x < 64) (hy : y < 32) :
    fb.pixel x y = fb[y][x] := by
  simp only [Framebuffer.pixel, Nat.mod_eq_of_lt hx, Nat.mod_eq_of_lt hy]

/-- Two framebuffers that show the same pixels are equal. -/
theorem Framebuffer.ext_pixel {a b : Framebuffer} (h : ∀ x y, x < 64 → y < 32 → a.pixel x y = b.pixel x y) : a = b := by
  apply Vector.ext; intro y hy
  apply Vector.ext; intro x hx
  rw [← a.pixel_eq x y hx hy, ← b.pixel_eq x y hx hy]
  exact h x y hx hy

end Sys2Proof.Machine
end

