-- ==== Sys2Proof/Laws/Memory.lean ====
section
/-! SUPPORT. What the memory operations do: read after write for every memory, and that every write keeps the canonical
form. -/

namespace Sys2Proof.Machine

/-! ### One byte -/

theorem Memory.read_erase (c : Config) (m : Memory) (a x : Nat) :
    Memory.read c (m.erase a) x = if x = a then Memory.resetByte c a else Memory.read c m x := by
  induction m with
  | nil => by_cases h : x = a <;> simp [Memory.erase, Memory.read, h]
  | cons cell rest ih =>
    by_cases hc : cell.1 = a
    · have : Memory.erase (cell :: rest) a = Memory.erase rest a := by simp [Memory.erase, hc]
      rw [this, ih, Memory.read]
      by_cases h : x = a
      · simp [h]
      · simp [h, hc]
    · have : Memory.erase (cell :: rest) a = cell :: Memory.erase rest a := by simp [Memory.erase, hc]
      rw [this, Memory.read, ih, Memory.read]
      by_cases h : x = cell.1
      · simp [h, hc]
      · simp [h]

theorem Memory.read_insert (c : Config) (m : Memory) (a : Nat) (b : Byte) (x : Nat)
    (ha : ∀ p ∈ m, p.1 ≠ a) :
    Memory.read c (m.insert a b) x = if x = a then b else Memory.read c m x := by
  induction m with
  | nil => simp [Memory.insert, Memory.read]
  | cons cell rest ih =>
    have hc : cell.1 ≠ a := ha cell (by simp)
    have ih := ih fun p hp => ha p (by simp [hp])
    rw [Memory.insert]
    split
    · simp [Memory.read]
    · rw [Memory.read, ih, Memory.read]
      by_cases h : x = cell.1
      · simp [h, hc]
      · simp [h]

theorem Memory.erase_ne {m : Memory} {a : Nat} : ∀ p ∈ m.erase a, p.1 ≠ a := by
  intro p hp
  simpa [Memory.erase] using (List.mem_filter.1 hp).2

/-- Read after write, for every memory: the byte written at the address, every other address as before. -/
@[simp] theorem Memory.read_write (c : Config) (m : Memory) (a : Nat) (b : Byte) (x : Nat) :
    Memory.read c (m.write c a b) x = if x = a then b else Memory.read c m x := by
  unfold Memory.write
  split
  · rename_i h; rw [Memory.read_erase, h]
  · rw [Memory.read_insert c _ a b x Memory.erase_ne, Memory.read_erase]
    by_cases h : x = a <;> simp [h]

/-! ### The canonical form -/

theorem Memory.wf_nil (c : Config) : Memory.wf c [] := by simp [Memory.wf]

theorem Memory.wf_erase {c : Config} {m : Memory} (a : Nat) (h : Memory.wf c m) : Memory.wf c (m.erase a) :=
  ⟨h.1.filter _, fun p hp => h.2 p (List.mem_filter.1 hp).1⟩

theorem Memory.mem_insert {m : Memory} {a : Nat} {b : Byte} {p : Host.Cell} (h : p ∈ m.insert a b) :
    p = (a, b) ∨ p ∈ m := by
  induction m with
  | nil => simpa [Memory.insert] using h
  | cons cell rest ih =>
    rw [Memory.insert] at h
    split at h
    · simpa using h
    · rcases List.mem_cons.1 h with rfl | h
      · simp
      · rcases ih h with h | h <;> simp [h]

theorem Memory.sorted_insert {m : Memory} {a : Nat} {b : Byte} (hs : m.Pairwise (fun p q => p.1 < q.1))
    (ha : ∀ p ∈ m, p.1 ≠ a) : (m.insert a b).Pairwise (fun p q => p.1 < q.1) := by
  induction m with
  | nil => simp [Memory.insert]
  | cons cell rest ih =>
    have ⟨h1, h2⟩ := List.pairwise_cons.1 hs
    rw [Memory.insert]
    split
    · rename_i hlt
      refine List.pairwise_cons.2 ⟨fun p hp => ?_, hs⟩
      rcases List.mem_cons.1 hp with rfl | hp
      · exact hlt
      · exact hlt.trans (h1 p hp)
    · rename_i hlt
      have hc : cell.1 ≠ a := ha cell (by simp)
      refine List.pairwise_cons.2 ⟨fun p hp => ?_, ih h2 fun p hp => ha p (by simp [hp])⟩
      rcases Memory.mem_insert hp with rfl | hp
      · exact lt_of_le_of_ne (not_lt.1 hlt) hc
      · exact h1 p hp

theorem Memory.wf_write {c : Config} {m : Memory} {a : Nat} (b : Byte) (h : Memory.wf c m) (ha : a < memSize) :
    Memory.wf c (m.write c a b) := by
  unfold Memory.write
  split
  · exact Memory.wf_erase a h
  · rename_i hb
    have he := Memory.wf_erase a h
    refine ⟨Memory.sorted_insert he.1 Memory.erase_ne, fun p hp => ?_⟩
    rcases Memory.mem_insert hp with rfl | hp
    · exact ⟨ha, hb⟩
    · exact he.2 p hp

/-! ### Blocks of bytes -/

theorem Memory.read_writeAll (c : Config) (bs : List Byte) (m : Memory) (a x : Nat) :
    Memory.read c (m.writeAll c a bs) x =
      if h : a ≤ x ∧ x < a + bs.length then bs[x - a]'(by omega) else Memory.read c m x := by
  induction bs generalizing m a with
  | nil =>
    have : ¬(a ≤ x ∧ x < a + ([] : List Byte).length) := by simp
    simp only [Memory.writeAll, this, dite_false]
  | cons b rest ih =>
    rw [Memory.writeAll, ih]
    by_cases h0 : x = a
    · subst h0; simp
    · by_cases h1 : a ≤ x ∧ x < a + (b :: rest).length
      · have h2 : a + 1 ≤ x ∧ x < a + 1 + rest.length := by simp only [List.length_cons] at h1; omega
        have h3 : x - a = (x - (a + 1)) + 1 := by omega
        simp only [h1, h2, and_self, dite_true, h3, List.getElem_cons_succ]
      · have h2 : ¬(a + 1 ≤ x ∧ x < a + 1 + rest.length) := by simp only [List.length_cons] at h1; omega
        simp only [h1, h2, dite_false, Memory.read_write, h0, if_false]

theorem Memory.wf_writeAll {c : Config} (bs : List Byte) {m : Memory} {a : Nat} (h : Memory.wf c m)
    (ha : a + bs.length ≤ memSize) : Memory.wf c (m.writeAll c a bs) := by
  induction bs generalizing m a with
  | nil => exact h
  | cons b rest ih =>
    simp only [List.length_cons] at ha
    exact ih (Memory.wf_write b h (by omega)) (by omega)

/-- The `n` bytes at ascending addresses from `a`. -/
def Memory.readAll (c : Config) (m : Memory) : Nat → Nat → List Byte
  | _, 0 => []
  | a, n + 1 => Memory.read c m a :: Memory.readAll c m (a + 1) n

@[simp] theorem Memory.length_readAll (c : Config) (m : Memory) (a n : Nat) : (m.readAll c a n).length = n := by
  induction n generalizing a with
  | zero => rfl
  | succ n ih => simp [Memory.readAll, ih]

@[simp] theorem Memory.getElem_readAll (c : Config) (m : Memory) (a n k : Nat) (h : k < (m.readAll c a n).length) :
    (m.readAll c a n)[k] = Memory.read c m (a + k) := by
  induction n generalizing a k with
  | zero => simp at h
  | succ n ih =>
    cases k with
    | zero => simp [Memory.readAll]
    | succ k =>
      simp only [Memory.readAll, List.getElem_cons_succ, ih]
      congr 1; omega

/-! ### The state's own accesses -/

/-- All `memWrite` can do. -/
theorem State.memWrite_eq_some {s t : State} {a : Nat} {b : Byte} :
    s.memWrite a b = some t ↔ a < memSize ∧ t = { s with mem := Memory.write s.cfg s.mem a b } := by
  rw [State.memWrite, Option.ite_none_right_eq_some, Option.some.injEq, eq_comm (a := t)]

/-- All `loadBlock` can do: the bytes one by one, or nothing where an address exceeds 4095. -/
theorem State.loadBlock_eq (s : State) (a n : Nat) :
    s.loadBlock a n = if n = 0 ∨ a + n ≤ memSize then some (Memory.readAll s.cfg s.mem a n) else none := by
  induction n generalizing a with
  | zero => simp [State.loadBlock, Memory.readAll]
  | succ n ih =>
    rw [State.loadBlock, ih, State.memRead]
    by_cases h1 : a + (n + 1) ≤ memSize
    · have h2 : a < memSize := by omega
      have h3 : n = 0 ∨ a + 1 + n ≤ memSize := by omega
      simp [h1, h2, h3, Memory.readAll]
    · by_cases h2 : a < memSize
      · have h3 : ¬(n = 0 ∨ a + 1 + n ≤ memSize) := by omega
        simp [h1, h2, h3]
      · simp [h1, h2]

/-- All `storeBlock` can do: memory with every byte written and nothing else changed, or nothing. -/
theorem State.storeBlock_eq (s : State) (a : Nat) (bs : List Byte) :
    s.storeBlock a bs = if bs.length = 0 ∨ a + bs.length ≤ memSize then
      some { s with mem := Memory.writeAll s.cfg s.mem a bs } else none := by
  induction bs generalizing s a with
  | nil => simp [State.storeBlock, Memory.writeAll]
  | cons b rest ih =>
    rw [State.storeBlock, State.memWrite, List.length_cons]
    by_cases h1 : a + (rest.length + 1) ≤ memSize
    · have h2 : a < memSize := by omega
      have h3 : rest.length = 0 ∨ a + 1 + rest.length ≤ memSize := by omega
      simp only [h1, h2, h3, ih, Memory.writeAll, or_true, if_true]
    · by_cases h2 : a < memSize
      · have h3 : ¬(rest.length = 0 ∨ a + 1 + rest.length ≤ memSize) := by omega
        have h4 : ¬(rest.length + 1 = 0 ∨ a + (rest.length + 1) ≤ memSize) := by omega
        simp only [h2, h3, h4, ih, if_true, if_false]
      · have h4 : ¬(rest.length + 1 = 0 ∨ a + (rest.length + 1) ≤ memSize) := by omega
        simp only [h2, h4, if_false]

/-- What a completed block read holds: one byte per address, each the byte `MemRead` gives there. -/
theorem State.loadBlock_bytes {s : State} {a n : Nat} {bs : List Byte} (h : s.loadBlock a n = some bs) :
    bs.length = n ∧ ∀ k, (hk : k < bs.length) → s.memRead (a + k) = some bs[k] := by
  rw [State.loadBlock_eq, Option.ite_none_right_eq_some, Option.some.injEq] at h
  obtain ⟨hr, rfl⟩ := h
  refine ⟨by simp, fun k hk => ?_⟩
  have : a + k < memSize := by simp at hk; omega
  simp [State.memRead, this]

/-- What a completed block store leaves: nothing but memory changed, the stored addresses hold the bytes and every other
address reads as before. -/
theorem State.storeBlock_bytes {s t : State} {a : Nat} {bs : List Byte} (h : s.storeBlock a bs = some t) :
    t = { s with mem := t.mem } ∧ ∀ x, t.memRead x =
      if h : a ≤ x ∧ x < a + bs.length then some (bs[x - a]'(by omega)) else s.memRead x := by
  rw [State.storeBlock_eq, Option.ite_none_right_eq_some, Option.some.injEq] at h
  obtain ⟨hr, rfl⟩ := h
  refine ⟨rfl, fun x => ?_⟩
  simp only [State.memRead, Memory.read_writeAll]
  by_cases hx : a ≤ x ∧ x < a + bs.length
  · have : x < memSize := by omega
    simp [hx, this]
  · simp [hx]

/-- All a fetch can do: the big-endian word of the two bytes at `pc`, or nothing where `pc` exceeds 4094. -/
theorem State.fetch_eq (s : State) :
    s.fetch = if s.pc.toNat + 1 < memSize then
      some (wordOfBytes (Memory.read s.cfg s.mem s.pc.toNat) (Memory.read s.cfg s.mem (s.pc.toNat + 1))) else none := by
  unfold State.fetch State.memRead
  by_cases h : s.pc.toNat + 1 < memSize
  · have h0 : s.pc.toNat < memSize := by omega
    simp [h, h0]
  · by_cases h0 : s.pc.toNat < memSize <;> simp [h, h0]

end Sys2Proof.Machine
end

