-- ==== Sys2Proof/Laws/Ops.lean ====
section
/-! SUPPORT. What the other shared operations do: the stack, taking a fault, operands, flags, the keypad, one lemma each. -/

namespace Sys2Proof.Machine

/-! ### Taking a fault -/

@[simp] theorem orRaise_none {α : Type} (k : FaultKind) (s : State) (f : α → Result) :
    orRaise k s none f = .next (s.latch k) := rfl

@[simp] theorem orRaise_some {α : Type} (k : FaultKind) (s : State) (a : α) (f : α → Result) :
    orRaise k s (some a) f = f a := rfl

theorem raise_eq (k : FaultKind) (s : State) : raise k s = .next (s.latch k) := rfl

/-- All `orRaise` can do when it answers a next state: the fault was taken at `s`, or the value was used. -/
theorem orRaise_next {α : Type} {k : FaultKind} {s t : State} {r : Option α} {f : α → Result}
    (h : orRaise k s r f = .next t) : (r = none ∧ t = s.latch k) ∨ ∃ a, r = some a ∧ f a = .next t := by
  cases r with
  | none => exact .inl ⟨rfl, (Host.Outcome.next.inj h).symm⟩
  | some a => exact .inr ⟨a, rfl, h⟩

/-! ### The stack -/

/-- All `push` can do (10_state.md R29). -/
theorem State.push_eq_some {s t : State} {a : Word} :
    s.push a = some t ↔ ∃ h : s.sp.val < 16,
      t = { s with stack := s.stack.set s.sp.val a h, sp := ⟨s.sp.val + 1, by omega⟩ } := by
  unfold State.push
  split <;> simp_all [eq_comm]

theorem State.push_eq_none {s : State} {a : Word} : s.push a = none ↔ s.sp = 16 := by
  unfold State.push
  split
  · simp only [reduceCtorEq, false_iff]; rintro h; simp_all
  · simp only [true_iff]; apply Fin.ext; have := s.sp.isLt; simp; omega

/-- All `pop` can do (10_state.md R29). -/
theorem State.pop_eq_some {s : State} {p : Word × State} :
    s.pop = some p ↔ ∃ _ : 0 < s.sp.val,
      p = (s.stack[s.sp.val - 1]'(by omega), { s with sp := ⟨s.sp.val - 1, by omega⟩ }) := by
  unfold State.pop
  split <;> simp_all [eq_comm]

theorem State.pop_eq_none {s : State} : s.pop = none ↔ s.sp = 0 := by
  unfold State.pop
  split
  · simp only [reduceCtorEq, false_iff]; rintro h; simp_all
  · simp only [true_iff]; apply Fin.ext; simp; omega

/-! ### Operands -/

theorem setRegsFrom_getElem (v : Vector Byte 16) (k : Nat) (bs : List Byte) (j : Nat) (hj : j < 16) :
    (setRegsFrom v k bs)[j] = if h : k ≤ j ∧ j < k + bs.length then bs[j - k]'(by omega) else v[j] := by
  induction bs generalizing v k with
  | nil =>
    have : ¬(k ≤ j ∧ j < k + ([] : List Byte).length) := by simp
    simp only [setRegsFrom, this, dite_false]
  | cons b rest ih =>
    rw [setRegsFrom, ih]
    by_cases h0 : j = k
    · subst h0; simp
    · by_cases h1 : k ≤ j ∧ j < k + (b :: rest).length
      · have h2 : k + 1 ≤ j ∧ j < k + 1 + rest.length := by simp only [List.length_cons] at h1; omega
        have h3 : j - k = (j - (k + 1)) + 1 := by omega
        simp only [h1, h2, and_self, dite_true, h3, List.getElem_cons_succ]
      · have h2 : ¬(k + 1 ≤ j ∧ j < k + 1 + rest.length) := by simp only [List.length_cons] at h1; omega
        simp only [h1, h2, dite_false]
        rw [Vector.getElem_setIfInBounds]
        simp [Ne.symm h0]

/-- All `setRegBlock` does: the block's registers hold the bytes, the registers above it are unchanged. -/
theorem State.setRegBlock_reg (s : State) (bs : List Byte) (x : Nibble) :
    (s.setRegBlock bs).reg x = if h : x.toNat < bs.length then bs[x.toNat] else s.reg x := by
  simp only [State.reg, State.setRegBlock, setRegsFrom_getElem, Nat.zero_le, true_and, Nat.zero_add, Nat.sub_zero]

@[simp] theorem State.length_regBlock (s : State) (x : Nibble) : (s.regBlock x).length = x.toNat + 1 := by
  have := x.isLt
  simp [State.regBlock]; omega

@[simp] theorem State.getElem_regBlock (s : State) (x : Nibble) (k : Nat) (h : k < (s.regBlock x).length) :
    (s.regBlock x)[k] = s.reg (BitVec.ofNat 4 k) := by
  have hk : k < 16 := by have := x.isLt; simp at h; omega
  simp [State.regBlock, State.reg, Nat.mod_eq_of_lt hk]

/-! ### Flags -/

@[simp] theorem flagReg_toNat : flagReg.toNat = 15 := rfl

theorem sum9_toNat (a b : Byte) : (sum9 a b).toNat = a.toNat + b.toNat := by
  have := a.isLt; have := b.isLt
  simp only [sum9, BitVec.toNat_add, BitVec.toNat_setWidth]; omega

theorem sumByte_eq (a b : Byte) : sumByte a b = a + b := by
  apply BitVec.eq_of_toNat_eq
  simp [sumByte, sum9_toNat]

/-- The carry is 1 exactly where the sum passes 255. -/
theorem sumCarry_iff (a b : Byte) : sumCarry a b = true ↔ 256 ≤ a.toNat + b.toNat := by
  have ha := a.isLt; have hb := b.isLt
  rw [sumCarry, ← BitVec.testBit_toNat, sum9_toNat, Nat.testBit_eq_decide_div_mod_eq, decide_eq_true_eq]
  omega

theorem notBorrow_iff (a b : Byte) : notBorrow a b = true ↔ b.toNat ≤ a.toNat := by simp [notBorrow]

/-! ### The keypad -/

/-- All `keyLevel` can do: the key's level, or nothing where the register holds no key number. -/
theorem State.keyLevel_eq (s : State) (k : Byte) :
    s.keyLevel k = if k.toNat < 16 then some (s.keyDown (k.setWidth 4)) else none := rfl

end Sys2Proof.Machine
end

