-- ==== Sys2Proof/Laws/PerInstr.lean ====
section
/-! SUPPORT. The family EncodingRow: the encoder and the opcode table agree on every instruction, row by row. -/

namespace Sys2Proof.Laws.EncodingRow

/-- Some row of the opcode table (30_encoding.md R96) matches the instruction's encoded word and reads the instruction
back from its fields. -/
def Statement (i : Instr) : Prop :=
  ∃ r ∈ opcodeTable, r.matches (encode i) = true ∧ r.build (encode i) = i

/-- A row found by its place in the table. -/
theorem of_getElem {i : Instr} (k : Nat) (h : k < opcodeTable.length) (hm : opcodeTable[k].matches (encode i) = true)
    (hb : opcodeTable[k].build (encode i) = i) : Statement i :=
  ⟨opcodeTable[k], List.getElem_mem h, hm, hb⟩

theorem cls : Statement .cls := of_getElem 0 (by decide) (by decide) (by decide)

theorem ret : Statement .ret := of_getElem 1 (by decide) (by decide) (by decide)

theorem sys (nnn : Addr12) : Statement (.sys nnn) :=
  of_getElem 2 (by decide)
    (by simp (decide := true) [opcodeTable, opcodeRows1, opcodeRows2, opcodeRows3, encode,
      OpcodeRow.matches, and_F000])
    (by simp [opcodeTable, opcodeRows1, opcodeRows2, opcodeRows3, encode])

theorem jp (nnn : Addr12) : Statement (.jp nnn) :=
  of_getElem 3 (by decide)
    (by simp (decide := true) [opcodeTable, opcodeRows1, opcodeRows2, opcodeRows3, encode,
      OpcodeRow.matches, and_F000])
    (by simp [opcodeTable, opcodeRows1, opcodeRows2, opcodeRows3, encode])

theorem call (nnn : Addr12) : Statement (.call nnn) :=
  of_getElem 4 (by decide)
    (by simp (decide := true) [opcodeTable, opcodeRows1, opcodeRows2, opcodeRows3, encode,
      OpcodeRow.matches, and_F000])
    (by simp [opcodeTable, opcodeRows1, opcodeRows2, opcodeRows3, encode])

theorem seImm (x : Nibble) (nn : Byte) : Statement (.seImm x nn) :=
  of_getElem 5 (by decide)
    (by simp (decide := true) [opcodeTable, opcodeRows1, opcodeRows2, opcodeRows3, encode,
      OpcodeRow.matches, and_F000])
    (by simp [opcodeTable, opcodeRows1, opcodeRows2, opcodeRows3, encode])

theorem sneImm (x : Nibble) (nn : Byte) : Statement (.sneImm x nn) :=
  of_getElem 6 (by decide)
    (by simp (decide := true) [opcodeTable, opcodeRows1, opcodeRows2, opcodeRows3, encode,
      OpcodeRow.matches, and_F000])
    (by simp [opcodeTable, opcodeRows1, opcodeRows2, opcodeRows3, encode])

theorem seReg (x : Nibble) (y : Nibble) : Statement (.seReg x y) :=
  of_getElem 7 (by decide)
    (by simp (decide := true) [opcodeTable, opcodeRows1, opcodeRows2, opcodeRows3, encode,
      OpcodeRow.matches, and_F00F])
    (by simp [opcodeTable, opcodeRows1, opcodeRows2, opcodeRows3, encode])

theorem ldImm (x : Nibble) (nn : Byte) : Statement (.ldImm x nn) :=
  of_getElem 8 (by decide)
    (by simp (decide := true) [opcodeTable, opcodeRows1, opcodeRows2, opcodeRows3, encode,
      OpcodeRow.matches, and_F000])
    (by simp [opcodeTable, opcodeRows1, opcodeRows2, opcodeRows3, encode])

theorem addImm (x : Nibble) (nn : Byte) : Statement (.addImm x nn) :=
  of_getElem 9 (by decide)
    (by simp (decide := true) [opcodeTable, opcodeRows1, opcodeRows2, opcodeRows3, encode,
      OpcodeRow.matches, and_F000])
    (by simp [opcodeTable, opcodeRows1, opcodeRows2, opcodeRows3, encode])

theorem ldReg (x : Nibble) (y : Nibble) : Statement (.ldReg x y) :=
  of_getElem 10 (by decide)
    (by simp (decide := true) [opcodeTable, opcodeRows1, opcodeRows2, opcodeRows3, encode,
      OpcodeRow.matches, and_F00F])
    (by simp [opcodeTable, opcodeRows1, opcodeRows2, opcodeRows3, encode])

theorem orReg (x : Nibble) (y : Nibble) : Statement (.orReg x y) :=
  of_getElem 11 (by decide)
    (by simp (decide := true) [opcodeTable, opcodeRows1, opcodeRows2, opcodeRows3, encode,
      OpcodeRow.matches, and_F00F])
    (by simp [opcodeTable, opcodeRows1, opcodeRows2, opcodeRows3, encode])

theorem andReg (x : Nibble) (y : Nibble) : Statement (.andReg x y) :=
  of_getElem 12 (by decide)
    (by simp (decide := true) [opcodeTable, opcodeRows1, opcodeRows2, opcodeRows3, encode,
      OpcodeRow.matches, and_F00F])
    (by simp [opcodeTable, opcodeRows1, opcodeRows2, opcodeRows3, encode])

theorem xorReg (x : Nibble) (y : Nibble) : Statement (.xorReg x y) :=
  of_getElem 13 (by decide)
    (by simp (decide := true) [opcodeTable, opcodeRows1, opcodeRows2, opcodeRows3, encode,
      OpcodeRow.matches, and_F00F])
    (by simp [opcodeTable, opcodeRows1, opcodeRows2, opcodeRows3, encode])

theorem addReg (x : Nibble) (y : Nibble) : Statement (.addReg x y) :=
  of_getElem 14 (by decide)
    (by simp (decide := true) [opcodeTable, opcodeRows1, opcodeRows2, opcodeRows3, encode,
      OpcodeRow.matches, and_F00F])
    (by simp [opcodeTable, opcodeRows1, opcodeRows2, opcodeRows3, encode])

theorem sub (x : Nibble) (y : Nibble) : Statement (.sub x y) :=
  of_getElem 15 (by decide)
    (by simp (decide := true) [opcodeTable, opcodeRows1, opcodeRows2, opcodeRows3, encode,
      OpcodeRow.matches, and_F00F])
    (by simp [opcodeTable, opcodeRows1, opcodeRows2, opcodeRows3, encode])

theorem shr (x : Nibble) (y : Nibble) : Statement (.shr x y) :=
  of_getElem 16 (by decide)
    (by simp (decide := true) [opcodeTable, opcodeRows1, opcodeRows2, opcodeRows3, encode,
      OpcodeRow.matches, and_F00F])
    (by simp [opcodeTable, opcodeRows1, opcodeRows2, opcodeRows3, encode])

theorem subn (x : Nibble) (y : Nibble) : Statement (.subn x y) :=
  of_getElem 17 (by decide)
    (by simp (decide := true) [opcodeTable, opcodeRows1, opcodeRows2, opcodeRows3, encode,
      OpcodeRow.matches, and_F00F])
    (by simp [opcodeTable, opcodeRows1, opcodeRows2, opcodeRows3, encode])

theorem shl (x : Nibble) (y : Nibble) : Statement (.shl x y) :=
  of_getElem 18 (by decide)
    (by simp (decide := true) [opcodeTable, opcodeRows1, opcodeRows2, opcodeRows3, encode,
      OpcodeRow.matches, and_F00F])
    (by simp [opcodeTable, opcodeRows1, opcodeRows2, opcodeRows3, encode])

theorem sneReg (x : Nibble) (y : Nibble) : Statement (.sneReg x y) :=
  of_getElem 19 (by decide)
    (by simp (decide := true) [opcodeTable, opcodeRows1, opcodeRows2, opcodeRows3, encode,
      OpcodeRow.matches, and_F00F])
    (by simp [opcodeTable, opcodeRows1, opcodeRows2, opcodeRows3, encode])

theorem ldI (nnn : Addr12) : Statement (.ldI nnn) :=
  of_getElem 20 (by decide)
    (by simp (decide := true) [opcodeTable, opcodeRows1, opcodeRows2, opcodeRows3, encode,
      OpcodeRow.matches, and_F000])
    (by simp [opcodeTable, opcodeRows1, opcodeRows2, opcodeRows3, encode])

theorem jpV0 (nnn : Addr12) : Statement (.jpV0 nnn) :=
  of_getElem 21 (by decide)
    (by simp (decide := true) [opcodeTable, opcodeRows1, opcodeRows2, opcodeRows3, encode,
      OpcodeRow.matches, and_F000])
    (by simp [opcodeTable, opcodeRows1, opcodeRows2, opcodeRows3, encode])

theorem rnd (x : Nibble) (nn : Byte) : Statement (.rnd x nn) :=
  of_getElem 22 (by decide)
    (by simp (decide := true) [opcodeTable, opcodeRows1, opcodeRows2, opcodeRows3, encode,
      OpcodeRow.matches, and_F000])
    (by simp [opcodeTable, opcodeRows1, opcodeRows2, opcodeRows3, encode])

theorem drw (x : Nibble) (y : Nibble) (n : Nibble) : Statement (.drw x y n) :=
  of_getElem 23 (by decide)
    (by simp (decide := true) [opcodeTable, opcodeRows1, opcodeRows2, opcodeRows3, encode,
      OpcodeRow.matches, and_F000])
    (by simp [opcodeTable, opcodeRows1, opcodeRows2, opcodeRows3, encode])

theorem skp (x : Nibble) : Statement (.skp x) :=
  of_getElem 24 (by decide)
    (by simp (decide := true) [opcodeTable, opcodeRows1, opcodeRows2, opcodeRows3, encode,
      OpcodeRow.matches, and_F0FF])
    (by simp [opcodeTable, opcodeRows1, opcodeRows2, opcodeRows3, encode])

theorem sknp (x : Nibble) : Statement (.sknp x) :=
  of_getElem 25 (by decide)
    (by simp (decide := true) [opcodeTable, opcodeRows1, opcodeRows2, opcodeRows3, encode,
      OpcodeRow.matches, and_F0FF])
    (by simp [opcodeTable, opcodeRows1, opcodeRows2, opcodeRows3, encode])

theorem ldVxDt (x : Nibble) : Statement (.ldVxDt x) :=
  of_getElem 26 (by decide)
    (by simp (decide := true) [opcodeTable, opcodeRows1, opcodeRows2, opcodeRows3, encode,
      OpcodeRow.matches, and_F0FF])
    (by simp [opcodeTable, opcodeRows1, opcodeRows2, opcodeRows3, encode])

theorem ldVxK (x : Nibble) : Statement (.ldVxK x) :=
  of_getElem 27 (by decide)
    (by simp (decide := true) [opcodeTable, opcodeRows1, opcodeRows2, opcodeRows3, encode,
      OpcodeRow.matches, and_F0FF])
    (by simp [opcodeTable, opcodeRows1, opcodeRows2, opcodeRows3, encode])

theorem ldDtVx (x : Nibble) : Statement (.ldDtVx x) :=
  of_getElem 28 (by decide)
    (by simp (decide := true) [opcodeTable, opcodeRows1, opcodeRows2, opcodeRows3, encode,
      OpcodeRow.matches, and_F0FF])
    (by simp [opcodeTable, opcodeRows1, opcodeRows2, opcodeRows3, encode])

theorem ldStVx (x : Nibble) : Statement (.ldStVx x) :=
  of_getElem 29 (by decide)
    (by simp (decide := true) [opcodeTable, opcodeRows1, opcodeRows2, opcodeRows3, encode,
      OpcodeRow.matches, and_F0FF])
    (by simp [opcodeTable, opcodeRows1, opcodeRows2, opcodeRows3, encode])

theorem addI (x : Nibble) : Statement (.addI x) :=
  of_getElem 30 (by decide)
    (by simp (decide := true) [opcodeTable, opcodeRows1, opcodeRows2, opcodeRows3, encode,
      OpcodeRow.matches, and_F0FF])
    (by simp [opcodeTable, opcodeRows1, opcodeRows2, opcodeRows3, encode])

theorem ldF (x : Nibble) : Statement (.ldF x) :=
  of_getElem 31 (by decide)
    (by simp (decide := true) [opcodeTable, opcodeRows1, opcodeRows2, opcodeRows3, encode,
      OpcodeRow.matches, and_F0FF])
    (by simp [opcodeTable, opcodeRows1, opcodeRows2, opcodeRows3, encode])

theorem ldB (x : Nibble) : Statement (.ldB x) :=
  of_getElem 32 (by decide)
    (by simp (decide := true) [opcodeTable, opcodeRows1, opcodeRows2, opcodeRows3, encode,
      OpcodeRow.matches, and_F0FF])
    (by simp [opcodeTable, opcodeRows1, opcodeRows2, opcodeRows3, encode])

theorem ldMemVx (x : Nibble) : Statement (.ldMemVx x) :=
  of_getElem 33 (by decide)
    (by simp (decide := true) [opcodeTable, opcodeRows1, opcodeRows2, opcodeRows3, encode,
      OpcodeRow.matches, and_F0FF])
    (by simp [opcodeTable, opcodeRows1, opcodeRows2, opcodeRows3, encode])

theorem ldVxMem (x : Nibble) : Statement (.ldVxMem x) :=
  of_getElem 34 (by decide)
    (by simp (decide := true) [opcodeTable, opcodeRows1, opcodeRows2, opcodeRows3, encode,
      OpcodeRow.matches, and_F0FF])
    (by simp [opcodeTable, opcodeRows1, opcodeRows2, opcodeRows3, encode])

end Sys2Proof.Laws.EncodingRow
end

