-- ==== Sys2Proof/Laws/Step.lean ====
section
/-! SUPPORT. What a step is, by the transaction it performs, and what each transaction can do. -/

namespace Sys2Proof.Machine

/-! ### The choice of the transaction -/

theorem step_nil {s : State} (h : s.pending = []) : step s = cycle exec s := by simp [step, transactNext, h]

theorem step_cons {s : State} {t : Transaction} {rest : List Transaction} (h : s.pending = t :: rest) :
    step s = transact exec t (s.dequeue rest) := by simp [step, transactNext, h]

/-- Every step is one transaction. -/
theorem step_eq_transact (s : State) : ∃ t rest, step s = transact exec t (s.dequeue rest) := by
  match h : s.pending with
  | [] => exact ⟨.step, [], by rw [step_nil h]; cases s; cases h; rfl⟩
  | t :: rest => exact ⟨t, rest, step_cons h⟩

@[simp] theorem transact_reset (s : State) : transact exec .reset s = .next (resetBlock s) := rfl
@[simp] theorem transact_load (bs : List Byte) (s : State) : transact exec (.load bs) s = loadProgram bs s := rfl
@[simp] theorem transact_step (s : State) : transact exec .step s = cycle exec s := rfl
@[simp] theorem transact_tick (s : State) : transact exec .tick s = .next (tick s) := rfl
@[simp] theorem transact_keyEvent (k : Nibble) (d : Bool) (s : State) :
    transact exec (.keyEvent k d) s = .next (keyEvent k d s) := rfl
@[simp] theorem transact_present (s : State) : transact exec .present s = .next (present s) := rfl

/-! ### The instruction cycle -/

theorem cycle_halted {s : State} (h : s.halted = true) : cycle exec s = .next s := by simp [cycle, h]

theorem cycle_waiting {s : State} {x : Nibble} (h : s.wait = .key x) : cycle exec s = .next s := by
  cases hh : s.halted <;> simp [cycle, hh, h]

theorem cycle_running {s : State} (h : s.halted = false) (hw : s.wait = .idle) :
    cycle exec s = fetchAndRun exec s.closeLoad := by simp [cycle, h, hw]

theorem decodeAndRun_ok {s : State} {op : Word} {i : Instr} (h : decodeWord op = .ok i) :
    decodeAndRun exec s op = exec i s := by simp [decodeAndRun, h]

theorem decodeAndRun_error {s : State} {op : Word} {e : DecodeReject} (h : decodeWord op = .error e) :
    decodeAndRun exec s op = .next (s.latch .badInstruction) := by simp [decodeAndRun, h, raise]

/-- All a `Step` can do when it answers a next state: nothing, a fault at fetch or decode, or one instruction. -/
theorem cycle_next {s t : State} (h : cycle exec s = .next t) :
    (t = s ∧ (s.halted = true ∨ s.wait ≠ .idle)) ∨
    (s.halted = false ∧ s.wait = .idle ∧
      ((s.fetch = none ∧ t = s.closeLoad.latch .addressOutOfRange) ∨
       (∃ op e, s.fetch = some op ∧ decodeWord op = .error e ∧ t = s.closeLoad.latch .badInstruction) ∨
       (∃ op i, s.fetch = some op ∧ decodeWord op = .ok i ∧ exec i s.closeLoad = .next t))) := by
  cases hh : s.halted with
  | true => rw [cycle_halted hh] at h; exact .inl ⟨(Host.Outcome.next.inj h).symm, .inl rfl⟩
  | false =>
    match hw : s.wait with
    | .key x => rw [cycle_waiting hw] at h; exact .inl ⟨(Host.Outcome.next.inj h).symm, .inr (by simp)⟩
    | .idle =>
      refine .inr ⟨rfl, rfl, ?_⟩
      rw [cycle_running hh hw] at h
      have hf : s.closeLoad.fetch = s.fetch := rfl
      rcases orRaise_next h with ⟨hn, ht⟩ | ⟨op, ho, hr⟩
      · exact .inl ⟨hf ▸ hn, ht⟩
      · match hd : decodeWord op with
        | .error e => rw [decodeAndRun_error hd] at hr; exact .inr (.inl ⟨op, e, hf ▸ ho, hd, (Host.Outcome.next.inj hr).symm⟩)
        | .ok i => rw [decodeAndRun_ok hd] at hr; exact .inr (.inr ⟨op, i, hf ▸ ho, hd, hr⟩)

/-! ### The other transactions while halted -/

theorem tick_halted {s : State} (h : s.halted = true) : tick s = s := by simp [tick, h]
theorem keyEvent_halted {s : State} (h : s.halted = true) (k : Nibble) (d : Bool) : keyEvent k d s = s := by
  simp [keyEvent, h]
theorem present_halted {s : State} (h : s.halted = true) : present s = s := by simp [present, h]
theorem loadProgram_halted {s : State} (h : s.halted = true) (bs : List Byte) : loadProgram bs s = .next s := by
  simp [loadProgram, h]

end Sys2Proof.Machine
end

