-- ==== Sys2Proof/Tests/Slice0.lean ====
section
/-! SUPPORT. Tests. Expected results are those of the spec's encodings (30_encoding.md R93, R96) and of its test vectors
(95_test_vectors.md), each named where it is used; no expected value comes from the model. The last part shows for every
statement of Certificates/Slice0/Obligations.lean that has hypotheses a concrete state and operands that meet them. -/

namespace Sys2Proof.Tests

open Sys2Proof Sys2Proof.Machine

/-! ### Helpers -/

/-- The next state of an answer. -/
def nextOf : Result → Option State
  | .next t => some t
  | _ => none

/-- General registers set in the state after reset. -/
def withRegs (l : List (Nibble × Byte)) : State := l.foldl (fun s p => s.setReg p.1 p.2) State.reset

/-- Bytes of memory set at ascending addresses. -/
def withBytes (s : State) (a : Nat) (bs : List Byte) : State := { s with mem := Memory.writeAll s.cfg s.mem a bs }

/-- What one `Step` that runs the word `w` leaves, seen through `f`. -/
def after {α : Type} (w : Nat) (s : State) (f : State → α) : Option α :=
  (nextOf (step (s.withFetchWord 16 w))).map f

/-- What one transaction leaves, seen through `f`. -/
def afterTransaction {α : Type} (tr : Transaction) (s : State) (f : State → α) : Option α :=
  (nextOf (transact exec tr s)).map f

/-- What one meaning leaves, seen through `f`. -/
def afterExec {α : Type} (i : Instr) (s : State) (f : State → α) : Option α := (nextOf (exec i s)).map f

/-- The fault latch and `pc`. -/
def latchOf (t : State) : Option FaultKind × Bool × Word := (t.fault, t.halted, t.pc)

/-! ### WellFormed: the ill-formed terms are refused -/

theorem test_sysOfTheClearWord_isIllFormed : (Instr.sys 0x0E0).wellFormed = false := by decide
theorem test_sysOfTheReturnWord_isIllFormed : (Instr.sys 0x0EE).wellFormed = false := by decide
theorem test_sysOfTheNextWord_isWellFormed : (Instr.sys 0x0E1).wellFormed = true := by decide

/-! ### Decoding: a word of every row, written out bit by bit from R93 and R96 -/

theorem test_decode_flow :
    decodeWord 0b0000000011101110 = .ok .ret ∧
    decodeWord 0b0000101010111100 = .ok (.sys 0xABC) ∧
    decodeWord 0b0001001000000000 = .ok (.jp 0x200) ∧
    decodeWord 0b0010001000010000 = .ok (.call 0x210) ∧
    decodeWord 0b0011000100101010 = .ok (.seImm 1 0x2A) ∧
    decodeWord 0b0100001000000111 = .ok (.sneImm 2 0x07) ∧
    decodeWord 0b0101001000110000 = .ok (.seReg 2 3) ∧
    decodeWord 0b1001001000110000 = .ok (.sneReg 2 3) ∧
    decodeWord 0b1011001100000000 = .ok (.jpV0 0x300) := by decide

theorem test_decode_loadAlu :
    decodeWord 0b0110000000001010 = .ok (.ldImm 0 0x0A) ∧
    decodeWord 0b0111000111111111 = .ok (.addImm 1 0xFF) ∧
    decodeWord 0b1000111011110000 = .ok (.ldReg 14 15) ∧
    decodeWord 0b1000000000010001 = .ok (.orReg 0 1) ∧
    decodeWord 0b1000000000010010 = .ok (.andReg 0 1) ∧
    decodeWord 0b1000000000010011 = .ok (.xorReg 0 1) ∧
    decodeWord 0b1000000000010100 = .ok (.addReg 0 1) ∧
    decodeWord 0b1000101010110101 = .ok (.sub 10 11) ∧
    decodeWord 0b1000101110110110 = .ok (.shr 11 11) ∧
    decodeWord 0b1000000000010111 = .ok (.subn 0 1) ∧
    decodeWord 0b1000101010101110 = .ok (.shl 10 10) ∧
    decodeWord 0b1100001100001111 = .ok (.rnd 3 0x0F) := by decide

theorem test_decode_indexMemory :
    decodeWord 0b1010001100000000 = .ok (.ldI 0x300) ∧
    decodeWord 0b1111001000011110 = .ok (.addI 2) ∧
    decodeWord 0b1111000000101001 = .ok (.ldF 0) ∧
    decodeWord 0b1111000000110011 = .ok (.ldB 0) ∧
    decodeWord 0b1111000101010101 = .ok (.ldMemVx 1) ∧
    decodeWord 0b1111001001100101 = .ok (.ldVxMem 2) := by decide

theorem test_decode_display :
    decodeWord 0b0000000011100000 = .ok .cls ∧
    decodeWord 0b1101000100100101 = .ok (.drw 1 2 5) := by decide

theorem test_decode_keypadTimers :
    decodeWord 0b1110000010011110 = .ok (.skp 0) ∧
    decodeWord 0b1110000010100001 = .ok (.sknp 0) ∧
    decodeWord 0b1111000100000111 = .ok (.ldVxDt 1) ∧
    decodeWord 0b1111000000001010 = .ok (.ldVxK 0) ∧
    decodeWord 0b1111000000010101 = .ok (.ldDtVx 0) ∧
    decodeWord 0b1111000000011000 = .ok (.ldStVx 0) := by decide

/-- Vectors F22 to F28, and the SUPER-CHIP words of R104. -/
theorem test_decode_illegal :
    [0x5231, 0x8008, 0x800F, 0x9001, 0xE09F, 0xF000, 0xF075, 0xF030, 0xF085].all
      (fun op : Word => match decodeWord op with | .error _ => true | .ok _ => false) = true := by decide

theorem test_decode_tooShort : decodeBytes [0x12] = .error .tooShort := by decide

/-- Two instructions one after the other: the decoder leaves the bytes of the second (R91). -/
theorem test_decode_leavesTheRest : decodeBytes [0x60, 0x0A, 0x61, 0x05] = .ok (.ldImm 0 0x0A, [0x61, 0x05]) := by decide

theorem test_decodeTableWord : decodeTableWord 16 0xD125 = some (.drw 1 2 5) ∧ decodeTableWord 16 0x5001 = none := by decide

/-- The program P3's bytes of `SUB VA, VB` and `SHL VA, VA`. -/
theorem test_encodeBytes : encodeBytes (.sub 10 11) = [0x8A, 0xB5] ∧ encodeBytes (.shl 10 10) = [0x8A, 0xAE] := by decide

/-! ### Control transfer -/

/-- Vectors F19, F20. -/
theorem test_sys_faults : after 0x0000 State.reset latchOf = some (some .badInstruction, true, 0x200) ∧
    after 0x00E1 State.reset latchOf = some (some .badInstruction, true, 0x200) := by decide
/-- Vector F19, under SYS_POLICY = nop. -/
theorem test_sys_nop : after 0x0000 { State.reset with cfg := { defaultConfig with sysPolicy := .nop } } latchOf =
    some (none, false, 0x202) := by decide

/-- Vector S2b. -/
theorem test_ret_resumes :
    after 0x00EE { State.reset with pc := 0x214, sp := 1, stack := State.reset.stack.set 0 0x206 }
      (fun t => (t.pc, t.sp, t.stack[0])) = some (0x206, 0, 0x206) := by decide
/-- Vector S2f. -/
theorem test_ret_onAnEmptyStack : after 0x00EE State.reset latchOf = some (some .stackPointerOutOfRange, true, 0x200) := by
  decide

/-- Vector F14. -/
theorem test_jp : after 0x1FFF State.reset latchOf = some (none, false, 0xFFF) := by decide

/-- Vector S2a. -/
theorem test_call : after 0x2210 { State.reset with pc := 0x204 } (fun t => (t.pc, t.sp, t.stack[0])) =
    some (0x210, 1, 0x206) := by decide
/-- Vector S2d. -/
theorem test_call_onAFullStack :
    after 0x2300 { State.reset with sp := 16, stack := Vector.replicate 16 0x202 }
      (fun t => (latchOf t, t.sp)) = some ((some .stackPointerOutOfRange, true, 0x200), 16) := by decide

/-- Vectors F1, F2. -/
theorem test_seImm : after 0x3100 { State.reset with pc := 0x208 } (·.pc) = some 0x20C ∧
    after 0x3100 { withRegs [(1, 4)] with pc := 0x208 } (·.pc) = some 0x20A := by decide
/-- Vectors F3, F4. -/
theorem test_sneImm : after 0x4008 (withRegs [(0, 7)]) (·.pc) = some 0x204 ∧
    after 0x4007 (withRegs [(0, 7)]) (·.pc) = some 0x202 := by decide
/-- Vectors F5, F6. -/
theorem test_seReg : after 0x5230 { withRegs [(2, 9), (3, 9)] with pc := 0x300 } (·.pc) = some 0x304 ∧
    after 0x5230 { withRegs [(2, 9), (3, 8)] with pc := 0x300 } (·.pc) = some 0x302 := by decide
/-- Vectors F8, F9. -/
theorem test_sneReg : after 0x9230 { withRegs [(2, 9), (3, 8)] with pc := 0x300 } (·.pc) = some 0x304 ∧
    after 0x9230 { withRegs [(2, 9), (3, 9)] with pc := 0x300 } (·.pc) = some 0x302 := by decide

/-- Vectors F10, F11. -/
theorem test_jpV0 : after 0xB300 (withRegs [(0, 4)]) latchOf = some (none, false, 0x304) ∧
    after 0xBFFF State.reset latchOf = some (none, false, 0xFFF) := by decide
/-- Vectors F12, F13. -/
theorem test_jpV0_beyondMemory : after 0xBF01 (withRegs [(0, 0xFF)]) latchOf = some (some .addressOutOfRange, true, 0x200) ∧
    after 0xBFFF (withRegs [(0, 0xFF)]) latchOf = some (some .addressOutOfRange, true, 0x200) := by decide

/-- Vectors F15, F16. -/
theorem test_fetch_beyondMemory :
    (nextOf (step { State.reset with pc := 0xFFF })).map latchOf = some (some .addressOutOfRange, true, 0xFFF) ∧
    (nextOf (step { State.reset with pc := 0x1000 })).map latchOf = some (some .addressOutOfRange, true, 0x1000) := by decide
/-- Vectors F17 and F22. -/
theorem test_fetch_atTheTop : after 0x3000 { State.reset with pc := 0xFFE } latchOf = some (none, false, 0x1002) ∧
    after 0x5231 State.reset latchOf = some (some .badInstruction, true, 0x200) := by decide

/-! ### Register load, ALU, random -/

/-- Vectors A1, A2. -/
theorem test_ldImm : after 0x600A State.reset (fun t => (t.reg 0, t.pc)) = some (0x0A, 0x202) ∧
    after 0x6FAB State.reset (·.reg 15) = some 0xAB := by decide
/-- Vectors A4, A4b. -/
theorem test_addImm : after 0x7001 (withRegs [(0, 0xFF)]) (fun t => (t.reg 0, t.reg 15)) = some (0, 0) ∧
    after 0x7F01 (withRegs [(15, 0xFF)]) (·.reg 15) = some 0 := by decide
/-- Vector A5. -/
theorem test_ldReg : after 0x8EF0 (withRegs [(15, 1)]) (fun t => (t.reg 14, t.reg 15)) = some (1, 1) := by decide
/-- Vectors A6, A9. -/
theorem test_orReg : after 0x8011 (withRegs [(0, 0x0F), (1, 0xF0), (15, 1)]) (fun t => (t.reg 0, t.reg 15)) = some (0xFF, 0) ∧
    after 0x8F11 (withRegs [(1, 0xF0), (15, 0x0F)]) (·.reg 15) = some 0 := by decide
/-- Vector A7. -/
theorem test_andReg : after 0x8012 (withRegs [(0, 0x3C), (1, 0x0F), (15, 1)]) (fun t => (t.reg 0, t.reg 15)) = some (0x0C, 0) := by
  decide
/-- Vector A8. -/
theorem test_xorReg : after 0x8013 (withRegs [(0, 0xFF), (1, 0x0F), (15, 1)]) (fun t => (t.reg 0, t.reg 15)) = some (0xF0, 0) := by
  decide
/-- Vectors S3a, S3b. -/
theorem test_addReg : after 0x8014 (withRegs [(0, 0xFF), (1, 1)]) (fun t => (t.reg 0, t.reg 15)) = some (0, 1) ∧
    after 0x8014 (withRegs [(0, 1), (1, 1), (15, 1)]) (fun t => (t.reg 0, t.reg 15)) = some (2, 0) := by decide
/-- Vectors A14, A16: VF as the destination, VF as the second operand. -/
theorem test_addReg_flagRegister : after 0x8F14 (withRegs [(15, 0xF0), (1, 0x20)]) (·.reg 15) = some 1 ∧
    after 0x80F4 (withRegs [(0, 0xFF), (15, 1)]) (fun t => (t.reg 0, t.reg 15)) = some (0, 1) := by decide
/-- Vectors S4a, S4b. -/
theorem test_sub : after 0x8015 (withRegs [(0, 5), (1, 3)]) (fun t => (t.reg 0, t.reg 15)) = some (2, 1) ∧
    after 0x8015 (withRegs [(0, 3), (1, 5), (15, 1)]) (fun t => (t.reg 0, t.reg 15)) = some (254, 0) := by decide
/-- Vectors A17 (equal operands), A19 (VF as the destination). -/
theorem test_sub_corners : after 0x8015 (withRegs [(0, 7), (1, 7)]) (fun t => (t.reg 0, t.reg 15)) = some (0, 1) ∧
    after 0x8F15 (withRegs [(15, 5), (1, 3)]) (·.reg 15) = some 1 := by decide
/-- Vectors S4c, S4d. -/
theorem test_subn : after 0x8017 (withRegs [(0, 3), (1, 5)]) (fun t => (t.reg 0, t.reg 15)) = some (2, 1) ∧
    after 0x8017 (withRegs [(0, 5), (1, 3), (15, 1)]) (fun t => (t.reg 0, t.reg 15)) = some (254, 0) := by decide
/-- Vectors A25, A28: the bit shifted out; `y` ignored. -/
theorem test_shr : after 0x8BB6 (withRegs [(11, 9)]) (fun t => (t.reg 11, t.reg 15)) = some (4, 1) ∧
    after 0x8016 (withRegs [(0, 0xFE), (1, 0xFF), (15, 1)]) (fun t => (t.reg 0, t.reg 1, t.reg 15)) = some (0x7F, 0xFF, 0) := by
  decide
/-- Vectors A29, A30. -/
theorem test_shr_flagRegister : after 0x8FF6 (withRegs [(15, 0xFF)]) (·.reg 15) = some 0 ∧
    after 0x8F06 (withRegs [(15, 2)]) (·.reg 15) = some 0 := by decide
/-- Vectors A31, A34. -/
theorem test_shl : after 0x8AAE (withRegs [(10, 7), (15, 1)]) (fun t => (t.reg 10, t.reg 15)) = some (0x0E, 0) ∧
    after 0x801E (withRegs [(0, 1), (1, 0xFF)]) (fun t => (t.reg 0, t.reg 1, t.reg 15)) = some (2, 0xFF, 0) := by decide
/-- Vectors A35, A37. -/
theorem test_shl_flagRegister : after 0x8FFE (withRegs [(15, 0xFF)]) (·.reg 15) = some 2 ∧
    after 0x8FFE (withRegs [(15, 0x7F)]) (·.reg 15) = some 0 := by decide
/-- Vector A39: masked by 0 the result is 0 whatever the free byte is. -/
theorem test_rnd_masked : afterExec (.rnd 3 0) (withRegs [(3, 9)]) (·.reg 3) = some 0 := by
  simp [afterExec, nextOf, exec, execRnd, State.reg, State.setReg, State.countDraw, State.advance, State.goto]
/-- R160: `pc` moves on, no other register changes, and one byte is used up. -/
theorem test_rnd : after 0xC3FF (withRegs [(4, 9), (15, 1)]) (fun t => (t.reg 4, t.reg 15, t.draws, t.pc)) =
    some (9, 1, 1, 0x202) := by decide

/-! ### Index and memory -/

/-- Vectors M1, M2. -/
theorem test_ldI : after 0xA300 State.reset (·.i) = some 0x300 ∧ after 0xAFFF State.reset (·.i) = some 0xFFF := by decide
/-- Vectors M3, M4. -/
theorem test_addI : after 0xF21E { withRegs [(2, 5)] with i := 0xFFE } (fun t => (t.i, t.reg 15)) = some (0x1003, 0) ∧
    after 0xF01E { withRegs [(0, 1)] with i := 0xFFFF } (fun t => (t.i, t.reg 15)) = some (0, 0) := by decide
/-- Vectors M5, M7. -/
theorem test_ldF : after 0xF029 (withRegs [(0, 3)]) (·.i) = some 0x00F ∧ after 0xF029 (withRegs [(0, 0x1A)]) (·.i) = some 0x032 := by
  decide
/-- Vector M11. -/
theorem test_ldB : after 0xF033 { withRegs [(0, 128)] with i := 0xFFD }
    (fun t => (t.memRead 0xFFD, t.memRead 0xFFE, t.memRead 0xFFF)) = some (some 1, some 2, some 8) := by decide
/-- Vectors M12, M13. -/
theorem test_ldB_beyondMemory : after 0xF033 { withRegs [(0, 128)] with i := 0xFFE }
      (fun t => (latchOf t, t.memRead 0xFFE, t.memRead 0xFFF)) = some ((some .addressOutOfRange, true, 0x200), some 0, some 0) ∧
    after 0xF033 { withRegs [(0, 128)] with i := 0xFFFF } latchOf = some (some .addressOutOfRange, true, 0x200) := by decide
/-- Vector M14. -/
theorem test_ldMemVx : after 0xF155 { withRegs [(0, 0x12), (1, 0x0A), (2, 0x77)] with i := 0x208 }
    (fun t => (t.memRead 0x208, t.memRead 0x209, t.memRead 0x20A, t.i)) = some (some 0x12, some 0x0A, some 0, 0x208) := by decide
/-- Vector M15. -/
theorem test_ldMemVx_beyondMemory : after 0xF255 { withRegs [(0, 1), (1, 2), (2, 3)] with i := 0xFFE }
    (fun t => (latchOf t, t.memRead 0xFFE, t.memRead 0xFFF)) = some ((some .addressOutOfRange, true, 0x200), some 0, some 0) := by
  decide
/-- Vector M17. -/
theorem test_ldVxMem : after 0xF265 (withBytes { withRegs [(3, 0x99)] with i := 0x300 } 0x300 [0, 1, 5, 7])
    (fun t => (t.reg 0, t.reg 1, t.reg 2, t.reg 3, t.i)) = some (0, 1, 5, 0x99, 0x300) := by decide
/-- Vector M20: the first sixteen bytes of the font. -/
theorem test_ldVxMem_font : after 0xFF65 State.reset (·.v.toList) =
    some [0xF0, 0x90, 0x90, 0x90, 0xF0, 0x20, 0x60, 0x20, 0x20, 0x70, 0xF0, 0x10, 0xF0, 0x80, 0xF0, 0xF0] := by decide

/-! ### Display -/

/-- Vector DS1. -/
theorem test_cls : after 0x00E0 { State.reset with fb := (State.reset.fb.toggle 0 0).toggle 63 31 }
    (fun t => (t.fb.pixel 0 0, t.fb.pixel 63 31, t.dirty, t.pc)) = some (false, false, true, 0x202) := by decide
/-- Vector S6a: both edges wrap. -/
theorem test_drw_wraps : after 0xD122 (withBytes { withRegs [(1, 62), (2, 31)] with i := 0x300 } 0x300 [0xF0, 0x10])
    (fun t => ([(62, 31), (63, 31), (0, 31), (1, 31), (1, 0), (2, 31), (0, 0)].map (fun p => t.fb.pixel p.1 p.2), t.reg 15, t.dirty)) =
    some ([true, true, true, true, true, false, false], 0, true) := by decide
/-- Vectors DS5 (a collision) and DS9 (a sprite past the end). -/
theorem test_drw_collides :
    after 0xD011 (withBytes { State.reset with i := 0x300, fb := State.reset.fb.toggle 1 0 } 0x300 [0xC0])
      (fun t => (t.fb.pixel 0 0, t.fb.pixel 1 0, t.reg 15)) = some (true, false, 1) ∧
    after 0xD012 (withBytes { withRegs [(15, 1)] with i := 0xFFF } 0xFFF [0xFF])
      (fun t => (latchOf t, t.reg 15, t.dirty, t.fb.pixel 0 0)) =
      some ((some .addressOutOfRange, true, 0x200), 1, false, false) := by decide

/-! ### Keypad and timers -/

/-- Vectors K1, K2. -/
theorem test_skp : after 0xE09E { withRegs [(0, 7)] with pc := 0x208, keys := State.reset.keys.set 7 true } (·.pc) = some 0x20C ∧
    after 0xE09E { withRegs [(0, 7)] with pc := 0x208 } (·.pc) = some 0x20A := by decide
/-- Vectors K3, K4. -/
theorem test_skp_noKey : after 0xE09E { withRegs [(0, 16)] with pc := 0x208 } latchOf = some (some .badArgument, true, 0x208) ∧
    after 0xE09E { withRegs [(0, 0xFF)] with pc := 0x208, keys := State.reset.keys.set 15 true } latchOf =
      some (some .badArgument, true, 0x208) := by decide
/-- Vectors K5, K6. -/
theorem test_sknp : after 0xE0A1 { withRegs [(0, 7)] with pc := 0x208 } (·.pc) = some 0x20C ∧
    after 0xE0A1 { withRegs [(0, 7)] with pc := 0x208, keys := State.reset.keys.set 7 true } (·.pc) = some 0x20A := by decide
/-- Vector K7. -/
theorem test_sknp_noKey : after 0xE0A1 (withRegs [(0, 0x17)]) latchOf = some (some .badArgument, true, 0x200) := by decide
/-- Vector K9. -/
theorem test_ldVxDt : after 0xF107 { State.reset with dt := 6 } (fun t => (t.reg 1, t.pc)) = some (6, 0x202) := by decide
/-- Vector K10. -/
theorem test_ldDtVx : after 0xF015 (withRegs [(0, 7)]) (fun t => (t.dt, t.st)) = some (7, 0) := by decide
/-- Vector K11. -/
theorem test_ldStVx : after 0xF018 (withRegs [(0, 7)]) (fun t => (t.st, t.dt, tone t)) = some (7, 0, true) := by decide
/-- Vector K14. -/
theorem test_ldVxK : after 0xF30A { State.reset with pc := 0x240, keys := State.reset.keys.set 3 true }
    (fun t => (t.wait, t.pc, t.reg 3)) = some (.key 3, 0x240, 0) := by decide

/-- The end of vector K14, with key 3 as given. -/
def waiting (down : Bool) : State := { State.reset with pc := 0x240, wait := .key 3, keys := State.reset.keys.set 3 down }

/-- Vectors K16, K17. -/
theorem test_keyEvent_keepsWaiting :
    afterTransaction (.keyEvent 3 true) (waiting true) (fun t => (t.wait, t.pc, t.keyDown 3)) = some (.key 3, 0x240, true) ∧
    afterTransaction (.keyEvent 3 false) (waiting true) (fun t => (t.wait, t.pc, t.keyDown 3)) = some (.key 3, 0x240, false) := by
  decide
/-- Vector K18. -/
theorem test_keyEvent_completes : afterTransaction (.keyEvent 3 true) (waiting false)
    (fun t => (t.reg 3, t.pc, t.wait, t.keyDown 3)) = some (3, 0x242, .idle, true) := by decide
/-- Vectors K12, K13. -/
theorem test_tick : afterTransaction .tick { State.reset with dt := 2, st := 1 } (fun t => (t.dt, t.st, tone t, t.pc)) =
      some (1, 0, false, 0x200) ∧
    afterTransaction .tick State.reset (fun t => (t.dt, t.st)) = some (0, 0) := by decide
/-- Vector K15: a hold, even where the fetch would fault. -/
theorem test_step_holds : afterTransaction .step { waiting true with pc := 0xFFF } latchOf = some (none, false, 0xFFF) := by decide
/-- Vector K21. -/
theorem test_halted_isFrozen : afterTransaction .tick { State.reset with dt := 5, fault := some .badInstruction, halted := true }
    (fun t => (t.dt, latchOf t)) = some (5, (some .badInstruction, true, 0x200)) := by decide

/-! ### Reset, load, present -/

/-- Vector L1, from a halted state. -/
theorem test_reset : afterTransaction .reset (withBytes { withRegs [(4, 9)] with pc := 0x300, halted := true, fault := some .badArgument }
      0 [0, 0])
    (fun t => (latchOf t, t.reg 4, t.memRead 0, t.memRead 5, t.memRead 80)) =
    some ((none, false, 0x200), 0, some 0xF0, some 0x20, some 0) := by decide
/-- Vector S8's program. -/
theorem test_load : afterTransaction (.load [0x60, 0x0A, 0x61, 0x05, 0x80, 0x14]) State.reset
    (fun t => (t.memRead 0x200, t.memRead 0x205, t.memRead 0x206, t.pc)) = some (some 0x60, some 0x14, some 0, 0x200) := by decide
/-- Vector L3. -/
theorem test_load_tooLong :
    loadProgram (List.replicate 3585 1) State.reset = raise .addressOutOfRange State.reset.closeLoad := by
  unfold loadProgram
  rw [if_neg (by decide), if_neg (by decide), if_pos (by rw [List.length_replicate]; decide)]
/-- A second `Load` has no step (70_reset_and_hazards.md R274, 93_implementation_defined.md U19). -/
theorem test_load_late : afterTransaction (.load [1]) { State.reset with loadOpen := false } latchOf = none := by decide
/-- Vector L5, and the presentation of S7. -/
theorem test_present : presentedFrame State.reset = none ∧ (presentedFrame { State.reset with dirty := true }).isSome = true ∧
    afterTransaction .present { State.reset with dirty := true } (·.dirty) = some false := by decide

/-! ### Witnesses: the hypotheses of every statement are met, each clause at its boundary -/

/-- A state after reset that fetches the word `w` next. -/
def ready (w : Nat) : State := State.reset.withFetchWord 16 w

/-- A state that a fault has halted. -/
def stopped : State := State.reset.latch .badInstruction

/-- Whether a meaning takes a fault of kind `k`. -/
def takes (i : Instr) (s : State) (k : FaultKind) : Bool := afterExec i s (fun t => (t.fault, t.halted)) == some (some k, true)

/-- Whether a meaning answers a next state without a fault. -/
def completes (i : Instr) (s : State) : Bool := afterExec i s (·.halted) == some false

theorem test_witness_DecodeOfEncodeIsInstruction :
    (Instr.sys 0x0DF).wellFormed = true ∧ (Instr.sys 0x0EF).wellFormed = true ∧ (Instr.drw 15 0 1).wellFormed = true := by decide

theorem test_witness_EncodeOfDecodeIsWord : decodeWord 0x00E0 = .ok .cls ∧ decodeWord 0x00E1 = .ok (.sys 0x0E1) ∧
    decodeWord 0xFF65 = .ok (.ldVxMem 15) := by decide

/-- Every mask and pattern of a claim `DecodesAs`: the pattern itself is of the row. -/
theorem test_witness_DecodesAs : [((0xFFFF, 0x00E0) : Word × Word), (0xFFFF, 0x00EE), (0xF000, 0x1000), (0xF000, 0x2000),
    (0xF000, 0x3000), (0xF000, 0x4000), (0xF00F, 0x5000), (0xF000, 0x6000), (0xF000, 0x7000), (0xF00F, 0x8000), (0xF00F, 0x8001),
    (0xF00F, 0x8002), (0xF00F, 0x8003), (0xF00F, 0x8004), (0xF00F, 0x8005), (0xF00F, 0x8006), (0xF00F, 0x8007), (0xF00F, 0x800E),
    (0xF00F, 0x9000), (0xF000, 0xA000), (0xF000, 0xB000), (0xF000, 0xC000), (0xF000, 0xD000), (0xF0FF, 0xE09E), (0xF0FF, 0xE0A1),
    (0xF0FF, 0xF007), (0xF0FF, 0xF00A), (0xF0FF, 0xF015), (0xF0FF, 0xF018), (0xF0FF, 0xF01E), (0xF0FF, 0xF029), (0xF0FF, 0xF033),
    (0xF0FF, 0xF055), (0xF0FF, 0xF065)].all (fun r => r.2 &&& r.1 == r.2) = true := by decide

/-- The illegal words next to the legal ones, in each of the five groups. -/
theorem test_witness_IllegalWordRaisesBadInstruction_words :
    [0x5001, 0x5FFF, 0x8008, 0x800D, 0x800F, 0x9001, 0x9FFF, 0xE09D, 0xE09F, 0xE0A0, 0xE0A2, 0xF006, 0xF008, 0xF064, 0xFFFF].all
      (fun op : Word => match decodeWord op with | .error _ => true | .ok _ => false) = true := by decide
theorem test_witness_IllegalWordRaisesBadInstruction : (ready 0x5001).running ∧ (ready 0x5001).fetch = some 0x5001 ∧
    ∃ e, decodeWord 0x5001 = .error e := ⟨by unfold State.running; decide, by decide, .noRow 0x5001, by decide⟩

theorem test_witness_StepRunsTheDecodedInstruction : (ready 0x600A).running ∧
    (ready 0x600A).memRead (ready 0x600A).pc.toNat = some 0x60 ∧ (ready 0x600A).memRead ((ready 0x600A).pc.toNat + 1) = some 0x0A ∧
    decodeBytes [0x60, 0x0A] = .ok (.ldImm 0 0x0A, []) ∧ (ready 0x600A).pending = [] ∧
    ({ ready 0x600A with pending := [.step, .tick] } : State).pending = .step :: [.tick] := by unfold State.running; decide

theorem test_witness_StepPerformsTheFirstPending : State.reset.pending = [] ∧
    ({ State.reset with pending := [.present] } : State).pending = .present :: [] := by decide

theorem test_witness_FetchIsBigEndianAndChecked :
    ({ State.reset with pc := 0xFFE } : State).pc.toNat < 4095 ∧ 4095 ≤ ({ State.reset with pc := 0xFFF } : State).pc.toNat ∧
    ({ State.reset with pc := 0xFFF } : State).running := by unfold State.running; decide

/-- The one case that stops: a `Load` after a `Step`. -/
theorem test_witness_OnlyALateLoadStops :
    (match step { State.reset with loadOpen := false, pending := [.load [1]] } with
      | .fault .lateLoad => true | .next _ => false | .refused _ => false) = true := by decide

theorem test_witness_HaltedBlockIsFrozen : stopped.halted = true ∧ Transaction.step ≠ .reset ∧ stopped.pending = [] ∧
    ({ stopped with pending := [.tick] } : State).halted = true ∧
    ({ stopped with pending := [.tick] } : State).pending = .tick :: [] := by decide

theorem test_witness_WaitEndsOnlyByKeyDownOrReset : (waiting false).wait = .key 3 ∧
    afterTransaction (.keyEvent 9 true) (waiting false) (fun t => decide (t.wait ≠ .key 3)) = some true ∧
    afterTransaction .reset (waiting false) (fun t => decide (t.wait ≠ .key 3)) = some true := by decide

/-- An instruction that completes and one that takes a fault. -/
theorem test_witness_FaultingInstructionCommitsNothing : completes (.ldImm 0 1) State.reset = true ∧
    takes (.sys 0) State.reset .badInstruction = true := by decide

/-- Every cause at its boundary, and the value before the boundary, which takes no fault. -/
theorem test_witness_ExecutionFaultCauses_faults : State.reset.halted = false ∧
    takes (.sys 0) State.reset .badInstruction = true ∧ takes .ret State.reset .stackPointerOutOfRange = true ∧
    takes (.call 0) { State.reset with sp := 16 } .stackPointerOutOfRange = true ∧
    takes (.jpV0 0xF01) (withRegs [(0, 0xFF)]) .addressOutOfRange = true ∧
    takes (.drw 0 0 1) { State.reset with i := 4096 } .addressOutOfRange = true ∧
    takes (.drw 0 0 15) { State.reset with i := 4082 } .addressOutOfRange = true ∧
    takes (.ldB 0) { State.reset with i := 4094 } .addressOutOfRange = true ∧
    takes (.ldMemVx 15) { State.reset with i := 4081 } .addressOutOfRange = true ∧
    takes (.ldVxMem 0) { State.reset with i := 4096 } .addressOutOfRange = true ∧
    takes (.skp 0) (withRegs [(0, 16)]) .badArgument = true ∧ takes (.sknp 0) (withRegs [(0, 255)]) .badArgument = true := by decide
theorem test_witness_ExecutionFaultCauses_completes :
    completes (.sys 0) { State.reset with cfg := { defaultConfig with sysPolicy := .nop } } = true ∧
    completes .ret { State.reset with sp := 1 } = true ∧ completes (.call 0) { State.reset with sp := 15 } = true ∧
    completes (.jpV0 0xF00) (withRegs [(0, 0xFF)]) = true ∧ completes (.drw 0 0 1) { State.reset with i := 4095 } = true ∧
    completes (.drw 0 0 0) { State.reset with i := 0xFFFF } = true ∧ completes (.ldB 0) { State.reset with i := 4093 } = true ∧
    completes (.ldMemVx 15) { State.reset with i := 4080 } = true ∧ completes (.ldVxMem 0) { State.reset with i := 4095 } = true ∧
    completes (.skp 0) (withRegs [(0, 15)]) = true ∧ completes (.sknp 0) (withRegs [(0, 15)]) = true := by decide

/-- A state with bytes in memory that meets the invariant and steps on. -/
theorem test_witness_EveryStepKeepsTheInvariant : ({ ready 0xF155 with i := 0x300 } : State).Inv ∧
    (nextOf (step { ready 0xF155 with i := 0x300 })).isSome = true := by
  refine ⟨⟨by decide, by decide, by decide, by decide, by decide⟩, by decide⟩

/-- Register values under which every instruction named in the statement changes the register named beside it. -/
def busy : State := { withRegs [(0, 3), (1, 0x85), (2, 0x91), (15, 9)] with dt := 7, i := 0 }

theorem test_witness_RegisterFrame :
    [(Instr.ldImm 1 0, (1 : Nibble)), (.addImm 1 1, 1), (.ldReg 1 2, 1), (.orReg 1 2, 1), (.orReg 1 2, 15), (.andReg 1 2, 1),
      (.andReg 1 2, 15), (.xorReg 1 2, 1), (.xorReg 1 2, 15), (.addReg 1 2, 1), (.addReg 1 2, 15), (.sub 1 2, 1), (.sub 1 2, 15),
      (.subn 1 2, 1), (.subn 1 2, 15), (.shr 1 0, 1), (.shr 1 0, 15), (.shl 1 0, 1), (.shl 1 0, 15), (.drw 0 0 1, 15),
      (.ldVxDt 1, 1), (.ldVxMem 1, 0), (.ldVxMem 1, 1)].all
      (fun p => afterExec p.1 busy (fun t => t.reg p.2 != busy.reg p.2) == some true) = true := by decide

/-- Every premise of the statement's clauses is met by an instruction its conclusion names. -/
theorem test_witness_StateFrame :
    afterExec (.ldB 0) { busy with i := 0x300 } (fun t => decide (t.memRead 0x302 ≠ busy.memRead 0x302)) = some true ∧
    afterExec (.ldMemVx 0) { busy with i := 0x300 } (fun t => decide (t.memRead 0x300 ≠ busy.memRead 0x300)) = some true ∧
    afterExec (.ldI 1) busy (fun t => decide (t.i ≠ busy.i)) = some true ∧
    afterExec (.addI 0) busy (fun t => decide (t.i ≠ busy.i)) = some true ∧
    afterExec (.ldF 0) busy (fun t => decide (t.i ≠ busy.i)) = some true ∧
    afterExec (.call 0) busy (fun t => decide (t.sp ≠ busy.sp ∧ t.stack ≠ busy.stack)) = some true ∧
    afterExec .ret { busy with sp := 1 } (fun t => decide (t.sp ≠ 1)) = some true ∧
    afterExec (.ldDtVx 0) busy (fun t => decide (t.dt ≠ busy.dt)) = some true ∧
    afterExec (.ldStVx 0) busy (fun t => decide (t.st ≠ busy.st)) = some true ∧
    afterExec .cls busy (fun t => decide (t.dirty ≠ busy.dirty)) = some true ∧
    afterExec (.drw 0 0 1) busy (fun t => decide (t.dirty ≠ busy.dirty)) = some true ∧
    afterExec (.ldVxK 0) busy (fun t => decide (t.wait ≠ busy.wait)) = some true ∧
    afterExec (.sys 0) busy (fun t => decide (t.fault ≠ busy.fault)) = some true ∧
    afterExec (.rnd 0 0) busy (fun t => decide (t.draws ≠ busy.draws)) = some true := by decide

theorem test_witness_ProgramCounterFrame : busy.halted = false ∧
    afterExec (.sys 0) busy latchOf = some (some .badInstruction, true, 0x200) ∧
    [Instr.cls, .jp 0, .call 0, .jpV0 0, .seImm 0 3, .sneImm 0 3, .seReg 0 1, .sneReg 0 1, .skp 0, .sknp 0, .ldVxK 0].all
      (fun i => completes i busy) = true ∧ completes .ret { busy with sp := 1 } = true := by decide

theorem test_witness_FlagRegisterIsAFlag : busy.halted = false ∧
    afterExec (.shl 15 0) { busy with v := busy.v.set 15 0x80 } (fun t => (t.halted, t.reg 15)) = some (false, 2) ∧
    afterExec (.ldImm 15 7) busy (fun t => (t.halted, t.reg 15)) = some (false, 7) := by decide

/-- Two states that differ in `ST`, `dirty` and a stale slot, one slot below `SP` agreeing. -/
theorem test_witness_UnobservableStateDoesNotInterfere :
    let s : State := { State.reset with sp := 1 }
    let u : State := { State.reset with sp := 1, st := 9, dirty := true, stack := State.reset.stack.set 1 5 }
    u = { s with st := u.st, dirty := u.dirty, stack := u.stack } ∧
    (∀ j : Fin 16, j.val < s.sp.val → u.stack[j] = s.stack[j]) ∧ u.stack ≠ s.stack := by
  refine ⟨rfl, by decide, by decide⟩

theorem test_witness_SysFollowsItsPolicy : State.reset.cfg.sysPolicy = .fault ∧
    ({ State.reset with cfg := { defaultConfig with sysPolicy := .nop } } : State).cfg.sysPolicy = .nop ∧
    (0x00E1 : Word) &&& 0xF000 = 0x0000 ∧ (0x00E1 : Word) ≠ 0x00E0 ∧ (0x00E1 : Word) ≠ 0x00EE := by decide

theorem test_witness_JumpsGoToTheirTargets : (0xF00 : Addr12).toNat + ((withRegs [(0, 0xFF)]).reg 0).toNat ≤ 4095 ∧
    4095 < (0xF01 : Addr12).toNat + ((withRegs [(0, 0xFF)]).reg 0).toNat := by decide

theorem test_witness_CallPushesTheReturnAddress : ({ State.reset with sp := 15 } : State).sp.val < 16 ∧
    ({ State.reset with sp := 16 } : State).sp.val = 16 := by decide

theorem test_witness_ReturnPopsTheReturnAddress : (0 : Fin 16).val + 1 = ({ State.reset with sp := 1 } : State).sp.val ∧
    (15 : Fin 16).val + 1 = ({ State.reset with sp := 16 } : State).sp.val ∧ State.reset.sp.val = 0 := by decide

/-- A call at depth 15, and the state it leaves, which is balanced with itself. -/
theorem test_witness_CallThenReturnResumesAfterTheCall : ({ State.reset with sp := 15 } : State).sp.val < 16 ∧
    afterExec (.call 0x300) { State.reset with sp := 15 } (·.sp) = some ({ State.reset with sp := 16 } : State).sp ∧
    ({ State.reset with sp := 16 } : State).sp.val = 16 := by decide

/-- A jump to itself (40_flow.md R131), with every kind of transaction the statement admits pending. -/
theorem test_witness_IdleLoopKeepsTheState : (ready 0x1200).running ∧ (ready 0x1200).fetch = some 0x1200 ∧
    decodeWord 0x1200 = .ok (.jp 0x200) ∧ (0x200 : Addr12).setWidth 16 = (ready 0x1200).pc ∧ (ready 0x1200).pending = [] ∧
    ({ ready 0x1200 with loadOpen := false } : State).loadOpen = false ∧
    ∀ t ∈ [Transaction.step, .tick, .keyEvent 3 true, .present], t ≠ .reset ∧ ∀ bytes, t ≠ .load bytes := by
  unfold State.running
  refine ⟨by decide, by decide, by decide, by decide, by decide, rfl, ?_⟩
  intro t ht
  simp only [List.mem_cons, List.not_mem_nil, or_false] at ht
  rcases ht with rfl | rfl | rfl | rfl <;> simp

theorem test_witness_FlagRegisterAsOperand : (0 : Nibble) ≠ 15 ∧
    [Instr.ldReg 0 15, .orReg 0 15, .andReg 0 15, .xorReg 0 15, .addReg 0 15, .sub 0 15, .subn 0 15].all
      (fun i => completes i busy) = true := by decide

theorem test_witness_RandomByteIsMasked : (0x0F : Byte).getLsbD 4 = false ∧ (0x0F : Byte).getLsbD 7 = false := by decide

/-- `LD I` at its highest value, `ADD I` across 65536, `LD F` of a value above 15. -/
theorem test_witness_IndexRegisterIsSet : (0xFFF : Addr12).toNat = 4095 ∧
    (({ withRegs [(0, 1)] with i := 0xFFFF } : State).i.toNat + ((withRegs [(0, 1)]).reg 0).toNat) % 65536 = 0 ∧
    (withRegs [(0, 0x1A)]).cfg.fontBase.val + 5 * (((withRegs [(0, 0x1A)]).reg 0).toNat % 16) = 50 := by decide

theorem test_witness_DecimalDigitsAreStored : ({ State.reset with i := 4093 } : State).i.toNat + 2 ≤ 4095 ∧
    ((withRegs [(0, 255)]).reg 0).toNat = 100 * 2 + 10 * 5 + 5 ∧ 4095 < ({ State.reset with i := 4094 } : State).i.toNat + 2 := by
  decide

theorem test_witness_RegisterBlockIsStored : ({ State.reset with i := 4080 } : State).i.toNat + (15 : Nibble).toNat ≤ 4095 ∧
    4095 < ({ State.reset with i := 4081 } : State).i.toNat + (15 : Nibble).toNat ∧ (15 : Nibble).toNat ≤ (15 : Nibble).toNat ∧
    4079 < ({ State.reset with i := 4080 } : State).dataAddr := by decide

theorem test_witness_RegisterBlockIsLoaded : ({ State.reset with i := 4095 } : State).i.toNat + (0 : Nibble).toNat ≤ 4095 ∧
    4095 < ({ State.reset with i := 4096 } : State).i.toNat + (0 : Nibble).toNat := by decide

/-- The loading state is the storing one's next state with its registers cleared. -/
theorem test_witness_StoredBlockLoadsBack : ∃ t : State, exec (.ldMemVx 2) { busy with i := 0x300 } = .next t ∧
    ({ busy with i := 0x300 } : State).i.toNat + (2 : Nibble).toNat ≤ 4095 ∧
    ({ t with v := State.reset.v } : State).sameMemory t ∧
    ({ t with v := State.reset.v } : State).i = ({ busy with i := 0x300 } : State).i :=
  ⟨_, rfl, by decide, fun _ => rfl, rfl⟩

/-- Program P4 at its fourth step. -/
def selfModifying : State := { withRegs [(0, 0x12), (1, 0x0A)] with pc := 0x206, i := 0x208 }

/-- FX55 over both bytes of the next word, a fetch after it, and the next step's premises. -/
theorem test_witness_StoreIsSeenByTheNextFetch_both : ∃ t : State, exec (.ldMemVx 1) selfModifying = .next t ∧
    Stores (.ldMemVx 1) selfModifying [0x12, 0x0A] ∧ selfModifying.dataAddr + [(0x12 : Byte), 0x0A].length ≤ 4096 ∧
    t.sameMemory t ∧ t.pc.toNat + 1 ≤ 4095 ∧ byteAfterStore selfModifying [0x12, 0x0A] t.pc.toNat = some 0x12 ∧
    byteAfterStore selfModifying [0x12, 0x0A] (t.pc.toNat + 1) = some 0x0A ∧ t.running ∧ t.pending = [] :=
  ⟨_, rfl, ⟨by decide, by decide⟩, by decide, fun _ => rfl, by decide, by decide, by decide, ⟨rfl, rfl⟩, rfl⟩

/-- FX33 whose last digit falls on the first byte of the next word only, and one that ends at the last byte of memory. -/
theorem test_witness_StoreIsSeenByTheNextFetch_one :
    Stores (.ldB 0) { withRegs [(0, 128)] with pc := 0x206, i := 0x206 } [1, 2, 8] ∧
    byteAfterStore { withRegs [(0, 128)] with pc := 0x206, i := 0x206 } [1, 2, 8] 0x208 = some 8 ∧
    byteAfterStore { withRegs [(0, 128)] with pc := 0x206, i := 0x206 } [1, 2, 8] 0x209 = some 0 ∧
    ({ withRegs [(0, 128)] with i := 0xFFD } : State).dataAddr + [(1 : Byte), 2, 8].length ≤ 4096 :=
  ⟨⟨1, 2, 8, by decide, by decide, by decide, by decide⟩, by decide, by decide, by decide⟩

theorem test_witness_ReadAfterWrite : (4095 : Nat) ≤ 4095 ∧ 4095 < 4096 ∧
    ((State.reset.memWrite 4095 0xAB).map (·.memRead 4095)) = some (some 0xAB) ∧ State.reset.memRead 4096 = none ∧
    ({ State.reset with i := 4096 } : State).i.toNat = 4096 := by decide

/-- A draw of no row, one whose last byte is the last of memory, and the font's glyph 0 at the origin, which covers a pixel. -/
theorem test_witness_DrawTogglesTheCoveredPixels : (0 : Nibble) = 0 ∧
    ({ State.reset with i := 4081 } : State).i.toNat + (15 : Nibble).toNat - 1 ≤ 4095 ∧ SpriteCovers State.reset 0 0 5 3 4 ∧
    ¬ SpriteCovers State.reset 0 0 5 4 4 := by
  refine ⟨rfl, by decide, ⟨4, 3, 0xF0, by decide, by decide, by decide, by decide, by decide, by decide⟩, ?_⟩
  rintro ⟨r, c, b, hr, hc, hb, hbit, hx, hy⟩
  have hr' : r = 4 := by simp [State.reg, State.reset] at hy; have : r < 5 := hr; omega
  have hc' : c = 4 := by simp [State.reg, State.reset] at hx; omega
  subst hr' hc'
  have : State.reset.memRead (State.reset.i.toNat + 4) = some 0xF0 := by decide
  rw [this] at hb
  cases hb
  exact absurd hbit (by decide)

theorem test_witness_DrawReportsCollisionAndDirty : ∃ t : State, exec (.drw 0 0 5) State.reset = .next t ∧
    State.reset.i.toNat + (5 : Nibble).toNat - 1 ≤ 4095 := ⟨_, rfl, by decide⟩

/-- The glyph drawn twice, the second time from other registers. -/
theorem test_witness_DrawingTwiceRestores : ∃ t : State, exec (.drw 0 0 5) State.reset = .next t ∧
    State.reset.i.toNat + (5 : Nibble).toNat - 1 ≤ 4095 ∧ (∀ (py : Fin 32) (px : Fin 64), State.reset.fb[py][px] = false) ∧
    ∃ u : State, u.fb = t.fb ∧ u.sameMemory State.reset ∧ u.i = State.reset.i ∧ u.reg 7 = State.reset.reg 0 ∧
      u.reg 8 = State.reset.reg 0 :=
  ⟨_, rfl, by decide, by intro py px; simp [State.reset], _, rfl, fun _ => rfl, rfl, rfl, rfl⟩

theorem test_witness_SpriteReadIsChecked : 1 ≤ (1 : Nibble).toNat ∧
    4095 < ({ State.reset with i := 4096 } : State).i.toNat + (1 : Nibble).toNat - 1 ∧
    4095 < ({ State.reset with i := 4082 } : State).i.toNat + (15 : Nibble).toNat - 1 := by decide

theorem test_witness_PresentHandsOutADirtyFrame : ({ State.reset with dirty := true } : State).halted = false ∧
    ({ State.reset with dirty := true } : State).dirty = true ∧ stopped.halted = true ∧ State.reset.dirty = false := by decide

theorem test_witness_SkipsTestTheKey : ((withRegs [(0, 15)]).reg 0).toNat = (15 : Fin 16).val ∧
    16 ≤ ((withRegs [(0, 16)]).reg 0).toNat := by decide

theorem test_witness_WaitForKeySuspendsUntilAKey : State.reset.halted = false ∧ State.reset.keyDown 15 = false := by decide

theorem test_witness_KeyEventSetsTheLevel : stopped.halted = true ∧ (waiting false).halted = false ∧
    (waiting false).wait = .key 3 ∧ (waiting false).keyDown 3 = false ∧ State.reset.wait = .idle ∧
    (waiting true).keyDown 3 = true := by decide

theorem test_witness_TimersAreReadAndWritten : State.reset.halted = false := by decide

theorem test_witness_TickCountsBothTimersDown : stopped.halted = true ∧ State.reset.halted = false := by decide

/-- A font placed at its highest address leaves addresses on both sides of it. -/
theorem test_witness_ResetPutsEveryPieceOfState :
    let s : State := { State.reset with cfg := { defaultConfig with fontBase := 432 } }
    431 < s.cfg.fontBase.val ∧ s.cfg.fontBase.val + 80 ≤ 512 ∧ 4096 ≤ 4096 := by decide

theorem test_witness_StartStateIsTheResetState : 79 < 4096 ∧ 80 < 4096 ∧ 4095 < 4096 := by decide

theorem test_witness_LoadPlacesTheProgram : stopped.halted = true ∧ State.reset.halted = false ∧ State.reset.loadOpen = true ∧
    ({ State.reset with loadOpen := false } : State).loadOpen = false ∧ 3584 < (List.replicate 3585 (1 : Byte)).length ∧
    (List.replicate 3584 (1 : Byte)).length ≤ 3584 ∧ 0x1FF < 0x200 ∧ 0x200 + [(1 : Byte)].length ≤ 0x201 := by
  simp only [List.length_replicate]; decide

theorem test_witness_LoadedProgramRunsFromItsFirstWord : ([] : List Byte).length + 2 ≤ 3584 ∧
    (List.replicate 3582 (0 : Byte)).length + 2 ≤ 3584 ∧ decodeWord ((0x60 : Byte) ++ (0x0A : Byte)) = .ok (.ldImm 0 0x0A) := by
  simp only [List.length_replicate]; decide

theorem test_witness_RequestsOfOneClockAreOrdered :
    (RequestPins.transactions ⟨true, none, true, false, false⟩ = [.reset]) ∧
    (⟨false, none, true, true, false⟩ : RequestPins).rst = false ∧ (ready 0xF015).running ∧ (ready 0xF015).pending = [] ∧
    (ready 0xF015).fetch = some 0xF015 ∧ decodeWord 0xF015 = .ok (.ldDtVx 0) := by unfold State.running; decide

end Sys2Proof.Tests
end

section
/-! PROOFS. The scope (spec/00_scope.md): which transaction a step performs. -/

namespace Sys2Proof.Machine

/-- Settles O7, by the two cases of the pending list: `step_nil` and `step_cons` say which transaction each performs. -/
theorem stepPerformsTheFirstPending : Obligations.StepPerformsTheFirstPending := by
  intro s
  constructor
  · intro hnone
    rw [step_nil hnone, transact_step]
  · intro t rest hfirst
    exact step_cons hfirst

end Sys2Proof.Machine
end

section
/-! PROOFS. What an instruction can do (40_flow.md to 45_keypad_timers.md): it takes a fault at the state it began with, or it
completes in one of the ways of `Completes`. -/

namespace Sys2Proof.Machine

/-- `Completes s i t`: run at `s`, the instruction `i` completes and leaves `t`. One way per row of the opcode table, with the
guard under which a row that can fault does complete. -/
inductive Completes (s : State) : Instr → State → Prop
  | cls : Completes s .cls { s with fb := Framebuffer.blank, dirty := true }.advance
  | ret (used : 0 < s.sp.val) :
      Completes s .ret ({ s with sp := ⟨s.sp.val - 1, by omega⟩ }.goto (s.stack[s.sp.val - 1]'(by omega)))
  | sys (nnn : Addr12) (ignored : s.cfg.sysPolicy = .nop) : Completes s (.sys nnn) s.advance
  | jp (nnn : Addr12) : Completes s (.jp nnn) (s.goto (zext16 nnn))
  | call (nnn : Addr12) (free : s.sp.val < 16) : Completes s (.call nnn)
      ({ s with stack := s.stack.set s.sp.val (s.pc + 2) free, sp := ⟨s.sp.val + 1, by omega⟩ }.goto (zext16 nnn))
  | seImm (x : Nibble) (nn : Byte) : Completes s (.seImm x nn) (s.skipIf (s.reg x == nn))
  | sneImm (x : Nibble) (nn : Byte) : Completes s (.sneImm x nn) (s.skipIf (s.reg x != nn))
  | seReg (x y : Nibble) : Completes s (.seReg x y) (s.skipIf (s.reg x == s.reg y))
  | sneReg (x y : Nibble) : Completes s (.sneReg x y) (s.skipIf (s.reg x != s.reg y))
  | skp (x : Nibble) (isKey : (s.reg x).toNat < 16) :
      Completes s (.skp x) (s.skipIf (s.keyDown ((s.reg x).setWidth 4)))
  | sknp (x : Nibble) (isKey : (s.reg x).toNat < 16) :
      Completes s (.sknp x) (s.skipIf !(s.keyDown ((s.reg x).setWidth 4)))
  | jpV0 (nnn : Addr12) (inMemory : nnn.toNat + (s.reg 0).toNat < memSize) :
      Completes s (.jpV0 nnn) (s.goto (BitVec.ofNat 16 (nnn.toNat + (s.reg 0).toNat)))
  | ldImm (x : Nibble) (nn : Byte) : Completes s (.ldImm x nn) (s.setReg x nn).advance
  | addImm (x : Nibble) (nn : Byte) : Completes s (.addImm x nn) (s.setReg x (s.reg x + nn)).advance
  | ldReg (x y : Nibble) : Completes s (.ldReg x y) (s.setReg x (s.reg y)).advance
  | orReg (x y : Nibble) : Completes s (.orReg x y) (s.resultThenFlag x (s.reg x ||| s.reg y) false)
  | andReg (x y : Nibble) : Completes s (.andReg x y) (s.resultThenFlag x (s.reg x &&& s.reg y) false)
  | xorReg (x y : Nibble) : Completes s (.xorReg x y) (s.resultThenFlag x (s.reg x ^^^ s.reg y) false)
  | addReg (x y : Nibble) :
      Completes s (.addReg x y) (s.resultThenFlag x (sumByte (s.reg x) (s.reg y)) (sumCarry (s.reg x) (s.reg y)))
  | sub (x y : Nibble) :
      Completes s (.sub x y) (s.resultThenFlag x (s.reg x - s.reg y) (notBorrow (s.reg x) (s.reg y)))
  | subn (x y : Nibble) :
      Completes s (.subn x y) (s.resultThenFlag x (s.reg y - s.reg x) (notBorrow (s.reg y) (s.reg x)))
  | shr (x y : Nibble) : Completes s (.shr x y) (s.flagThenShift x (shiftedOutRight (s.reg x)) (fun b => b >>> 1))
  | shl (x y : Nibble) : Completes s (.shl x y) (s.flagThenShift x (shiftedOutLeft (s.reg x)) (fun b => b <<< 1))
  | rnd (x : Nibble) (nn : Byte) :
      Completes s (.rnd x nn) ((s.setReg x (Config.draw8 s.draws &&& nn)).countDraw).advance
  | ldI (nnn : Addr12) : Completes s (.ldI nnn) (s.setIndex (zext16 nnn)).advance
  | addI (x : Nibble) : Completes s (.addI x) (s.setIndex (s.i + (s.reg x).setWidth 16)).advance
  | ldF (x : Nibble) : Completes s (.ldF x) (s.setIndex (glyphAddr s.cfg ((s.reg x).extractLsb' 0 4))).advance
  | ldB (x : Nibble) (inMemory : s.dataAddr + (bcdDigits (s.reg x)).length ≤ memSize) : Completes s (.ldB x)
      { s with mem := Memory.writeAll s.cfg s.mem s.dataAddr (bcdDigits (s.reg x)) }.advance
  | ldMemVx (x : Nibble) (inMemory : s.dataAddr + (s.regBlock x).length ≤ memSize) : Completes s (.ldMemVx x)
      { s with mem := Memory.writeAll s.cfg s.mem s.dataAddr (s.regBlock x) }.advance
  | ldVxMem (x : Nibble) (inMemory : s.dataAddr + (x.toNat + 1) ≤ memSize) : Completes s (.ldVxMem x)
      (s.setRegBlock (Memory.readAll s.cfg s.mem s.dataAddr (x.toNat + 1))).advance
  | drw (x y n : Nibble) (inMemory : n.toNat = 0 ∨ s.dataAddr + n.toNat ≤ memSize) : Completes s (.drw x y n)
      (s.commitDrawing (drawSprite s.fb (s.reg x).toNat (s.reg y).toNat
        (Memory.readAll s.cfg s.mem s.dataAddr n.toNat))).advance
  | ldVxDt (x : Nibble) : Completes s (.ldVxDt x) (s.setReg x s.dt).advance
  | ldVxK (x : Nibble) : Completes s (.ldVxK x) (s.setWait (.key x))
  | ldDtVx (x : Nibble) : Completes s (.ldDtVx x) (s.setDt (s.reg x)).advance
  | ldStVx (x : Nibble) : Completes s (.ldStVx x) (s.setSt (s.reg x)).advance

/-- `r` is a result the instruction `i` may give at `s`: the state with a fault latched, or a completion. -/
def Answers (s : State) (i : Instr) (r : Result) : Prop :=
  ∃ t, r = .next t ∧ ((∃ k, t = s.latch k) ∨ Completes s i t)

theorem Answers.completion {s t : State} {i : Instr} (h : Completes s i t) : Answers s i (.next t) := ⟨t, rfl, .inr h⟩

theorem Answers.fault (s : State) (i : Instr) (k : FaultKind) : Answers s i (raise k s) := ⟨s.latch k, rfl, .inl ⟨k, rfl⟩⟩

/-- An operation that may fail: it is enough to look at the values it gives. -/
theorem Answers.orRaise {α : Type} {s : State} {i : Instr} {k : FaultKind} {r : Option α} {f : α → Result}
    (h : ∀ a, r = some a → Answers s i (f a)) : Answers s i (orRaise k s r f) := by
  cases r with
  | none => exact Answers.fault s i k
  | some a => exact h a rfl

/-- A value given under a guard: it is enough to look at where the guard holds. -/
theorem Answers.guarded {α : Type} {s : State} {i : Instr} {k : FaultKind} {p : Prop} [Decidable p] {a : α} {f : α → Result}
    (h : p → Answers s i (f a)) : Answers s i (Machine.orRaise k s (if p then some a else none) f) := by
  refine .orRaise fun b hb => ?_
  obtain ⟨hp, hab⟩ := Option.ite_none_right_eq_some.1 hb
  cases hab
  exact h hp

/-- Every instruction answers a next state from every state, a fault or a completion. -/
theorem exec_answers (i : Instr) (s : State) : Answers s i (exec i s) := by
  cases i with
  | sys nnn =>
    simp only [exec, execSys]
    split
    · exact .fault s _ _
    · next hnop => exact .completion (.sys nnn hnop)
  | ret =>
    refine .orRaise fun p hp => ?_
    obtain ⟨hused, rfl⟩ := State.pop_eq_some.1 hp
    exact .completion (.ret hused)
  | call nnn =>
    refine .orRaise fun t ht => ?_
    obtain ⟨hfree, rfl⟩ := State.push_eq_some.1 ht
    exact .completion (.call nnn hfree)
  | jpV0 nnn => exact .guarded fun hin => .completion (.jpV0 nnn hin)
  | skp x => exact .guarded fun hkey => .completion (.skp x hkey)
  | sknp x => exact .guarded fun hkey => .completion (.sknp x hkey)
  | ldB x =>
    rw [exec, execLdB, State.storeBlock_eq]
    exact .guarded fun hin => .completion (.ldB x (hin.resolve_left (by simp [bcdDigits])))
  | ldMemVx x =>
    rw [exec, execLdMemVx, State.storeBlock_eq]
    exact .guarded fun hin => .completion (.ldMemVx x (hin.resolve_left (by simp)))
  | ldVxMem x =>
    rw [exec, execLdVxMem, State.loadBlock_eq]
    exact .guarded fun hin => .completion (.ldVxMem x (hin.resolve_left (by simp)))
  | drw x y n =>
    rw [exec, execDrw, State.loadBlock_eq]
    exact .guarded fun hin => .completion (.drw x y n hin)
  | _ => exact .completion (by constructor)

/-- All an instruction can do when it answers `t`. -/
theorem exec_next {i : Instr} {s t : State} (h : exec i s = .next t) : (∃ k, t = s.latch k) ∨ Completes s i t := by
  obtain ⟨t', ht', hc⟩ := exec_answers i s
  cases ht'.symm.trans h
  exact hc

end Sys2Proof.Machine
end

section
/-! PROOFS. What a completion changes (10_state.md R20), piece of state by piece of state. -/

namespace Sys2Proof.Machine

@[simp] theorem State.resultThenFlag_eq (s : State) (x : Nibble) (b : Byte) (f : Bool) :
    s.resultThenFlag x b f = ((s.setReg x b).setFlag f).advance := rfl

@[simp] theorem State.flagThenShift_eq (s : State) (x : Nibble) (f : Bool) (g : Byte → Byte) :
    s.flagThenShift x f g = ((s.setFlag f).setReg x (g ((s.setFlag f).reg x))).advance := rfl

@[simp] theorem State.commitDrawing_eq (s : State) (d : Drawing) :
    s.commitDrawing d = { s with fb := d.fb, dirty := s.dirty || d.changed }.setFlag d.coll := rfl

section
variable {i : Instr} {s t : State}

/-- What no completion changes. -/
theorem Completes.keeps (h : Completes s i t) : t.fault = s.fault ∧ t.halted = s.halted ∧ t.keys = s.keys ∧
    t.cfg = s.cfg ∧ t.pending = s.pending ∧ t.loadOpen = s.loadOpen := by
  cases h <;> simp

theorem Completes.index (h : Completes s i t) :
    t.i = s.i ∨ (∃ n, i = .ldI n) ∨ (∃ x, i = .addI x) ∨ ∃ x, i = .ldF x := by
  cases h with
  | ldI nnn => exact .inr (.inl ⟨nnn, rfl⟩)
  | addI x => exact .inr (.inr (.inl ⟨x, rfl⟩))
  | ldF x => exact .inr (.inr (.inr ⟨x, rfl⟩))
  | _ => left; simp

theorem Completes.sp (h : Completes s i t) : t.sp = s.sp ∨ i = .ret ∨ ∃ n, i = .call n := by
  cases h with
  | ret => exact .inr (.inl rfl)
  | call nnn => exact .inr (.inr ⟨nnn, rfl⟩)
  | _ => left; simp

theorem Completes.stack (h : Completes s i t) : t.stack = s.stack ∨
    (∃ n, i = .call n) ∧ ∃ free : s.sp.val < 16, t.stack = s.stack.set s.sp.val (s.pc + 2) free := by
  cases h with
  | call nnn free => exact .inr ⟨⟨nnn, rfl⟩, free, rfl⟩
  | _ => left; simp

theorem Completes.memory (h : Completes s i t) : t.mem = s.mem ∨
    ((∃ x, i = .ldB x) ∨ ∃ x, i = .ldMemVx x) ∧
      ∃ bs, s.dataAddr + bs.length ≤ memSize ∧ t.mem = Memory.writeAll s.cfg s.mem s.dataAddr bs := by
  cases h with
  | ldB x inMemory => exact .inr ⟨.inl ⟨x, rfl⟩, _, inMemory, rfl⟩
  | ldMemVx x inMemory => exact .inr ⟨.inr ⟨x, rfl⟩, _, inMemory, rfl⟩
  | _ => left; simp

theorem Completes.dt (h : Completes s i t) : t.dt = s.dt ∨ ∃ x, i = .ldDtVx x := by
  cases h with
  | ldDtVx x => exact .inr ⟨x, rfl⟩
  | _ => left; simp

theorem Completes.st (h : Completes s i t) : t.st = s.st ∨ ∃ x, i = .ldStVx x := by
  cases h with
  | ldStVx x => exact .inr ⟨x, rfl⟩
  | _ => left; simp

theorem Completes.display (h : Completes s i t) :
    (t.fb = s.fb ∧ t.dirty = s.dirty) ∨ i = .cls ∨ ∃ x y n, i = .drw x y n := by
  cases h with
  | cls => exact .inr (.inl rfl)
  | drw x y n => exact .inr (.inr ⟨x, y, n, rfl⟩)
  | _ => left; simp

theorem Completes.wait (h : Completes s i t) : t.wait = s.wait ∨ (∃ x, i = .ldVxK x) ∧ t.pc = s.pc := by
  cases h with
  | ldVxK x => exact .inr ⟨⟨x, rfl⟩, rfl⟩
  | _ => left; simp

theorem Completes.draws (h : Completes s i t) : t.draws = s.draws ∨ ∃ x nn, i = .rnd x nn := by
  cases h with
  | rnd x nn => exact .inr ⟨x, nn, rfl⟩
  | _ => left; simp

end

end Sys2Proof.Machine
end

section
/-! PROOFS. The invariant of 10_state.md (R25, R38): the state after reset meets it, and every transaction keeps it. -/

namespace Sys2Proof.Machine

/-! ### Reset -/

/-- The invariant speaks of no parameter but the font, which empty memory agrees with. -/
theorem State.Inv.of_reset (c : Config) (n : Nat) (p : List Transaction) :
    ({ State.reset with cfg := c, draws := n, pending := p } : State).Inv where
  memory := Memory.wf_nil c
  latch := rfl
  pc := (by decide : State.reset.pc.toNat ≤ 4098)
  stack := (by decide : ∀ j : Fin 16, State.reset.stack[j].toNat ≤ 4096)
  wait := fun h => absurd rfl h

/-- Settles O14: `State.Inv.of_reset` holds for every choice of the parameters, the default one included. -/
theorem resetStateMeetsTheInvariant : Obligations.ResetStateMeetsTheInvariant :=
  ⟨.of_reset defaultConfig 0 [], fun c => .of_reset c 0 []⟩

/-! ### Updates of fields the invariant does not speak of, and the fault latch -/

section
variable {s : State} (h : s.Inv)
include h

theorem State.Inv.dequeue (rest : List Transaction) : (s.dequeue rest).Inv := ⟨h.memory, h.latch, h.pc, h.stack, h.wait⟩

theorem State.Inv.closeLoad : s.closeLoad.Inv := ⟨h.memory, h.latch, h.pc, h.stack, h.wait⟩

theorem State.Inv.setKey (k : Nibble) (down : Bool) : (s.setKey k down).Inv := ⟨h.memory, h.latch, h.pc, h.stack, h.wait⟩

theorem State.Inv.latched (k : FaultKind) : (s.latch k).Inv := ⟨h.memory, rfl, h.pc, h.stack, h.wait⟩

/-! ### The transactions of the environment -/

theorem State.Inv.tick : (tick s).Inv := by
  unfold Machine.tick
  split
  · exact h
  · exact ⟨h.memory, h.latch, h.pc, h.stack, h.wait⟩

theorem State.Inv.present : (present s).Inv := by
  unfold Machine.present
  split
  · exact h
  · exact ⟨h.memory, h.latch, h.pc, h.stack, h.wait⟩

/-- A wait that ends moves `pc` past the waiting instruction, which stood at a fetchable address. -/
theorem State.Inv.completeWait (hwait : s.wait ≠ .idle) (x k : Nibble) : (s.completeWait x k).Inv where
  memory := h.memory
  latch := h.latch
  pc := by
    have hpc := h.wait hwait
    show (s.pc + 2).toNat ≤ 4098
    bv_omega
  stack := h.stack
  wait := fun hidle => absurd rfl hidle

theorem State.Inv.keyEvent (k : Nibble) (down : Bool) : (keyEvent k down s).Inv := by
  unfold Machine.keyEvent
  split
  · exact h
  · split
    · exact h.setKey k down
    · next x hx =>
      split
      · exact (h.completeWait (by simp [hx]) x k).setKey k down
      · exact h.setKey k down

/-- A program of at most 3584 bytes from 0x200 lies inside memory. -/
theorem State.Inv.loadProgram {t : State} {bytes : List Byte} (ht : loadProgram bytes s = .next t) : t.Inv := by
  unfold Machine.loadProgram at ht
  split at ht
  · cases ht; exact h
  · split at ht
    · cases ht
    · split at ht
      · cases ht; exact h.closeLoad.latched _
      · next hlen =>
        cases ht
        have hfits : programBase + bytes.length ≤ memSize := Nat.add_le_add_left (not_lt.1 hlen) programBase
        exact ⟨Memory.wf_writeAll bytes h.memory hfits, h.latch, h.pc, h.stack, h.wait⟩

end

/-! ### Instructions -/

section
variable {i : Instr} {s t : State}

theorem toNat_zext16_lt (nnn : Addr12) : (zext16 nnn).toNat < 4096 := by
  have := nnn.isLt
  simp only [zext16, BitVec.toNat_setWidth]
  omega

/-- From a fetchable address no instruction leaves `pc` beyond 4098: a jump goes to a 12-bit or checked address, RET to a
stack slot, and everything else at most 4 bytes on. -/
theorem Completes.pc_le (hc : Completes s i t) (hpc : s.pc.toNat ≤ 4094) (hstack : ∀ j : Fin 16, s.stack[j].toNat ≤ 4096) :
    t.pc.toNat ≤ 4098 := by
  have hadvance : (s.pc + 2).toNat ≤ 4098 := by bv_omega
  have hskip : ∀ taken, (s.skipIf taken).pc.toNat ≤ 4098 := by
    intro taken
    rw [State.skipIf_pc]
    split <;> bv_omega
  cases hc with
  | jp nnn => exact (toNat_zext16_lt nnn).le.trans (by decide)
  | call nnn => exact (toNat_zext16_lt nnn).le.trans (by decide)
  | jpV0 nnn inMemory => exact (Nat.mod_le _ (2 ^ 16)).trans (inMemory.le.trans (by decide))
  | ret used => exact (hstack ⟨s.sp.val - 1, by omega⟩).trans (by decide)
  | ldVxK x => exact hpc.trans (by decide)
  | seImm | sneImm | seReg | sneReg | skp | sknp => exact hskip _
  | _ => exact hadvance

/-- The one slot an instruction writes takes a return address of at most 4096. -/
theorem Completes.stack_le (hc : Completes s i t) (hpc : s.pc.toNat ≤ 4094)
    (hstack : ∀ j : Fin 16, s.stack[j].toNat ≤ 4096) (j : Fin 16) : t.stack[j].toNat ≤ 4096 := by
  obtain hsame | ⟨-, free, hpush⟩ := hc.stack
  · rw [hsame]; exact hstack j
  · have hreturn : (s.pc + 2).toNat ≤ 4096 := by bv_omega
    rw [hpush, Fin.getElem_fin, Vector.getElem_set]
    split
    · exact hreturn
    · exact hstack j

theorem Completes.memory_wf (hc : Completes s i t) (hwf : Memory.wf s.cfg s.mem) : Memory.wf t.cfg t.mem := by
  obtain ⟨-, -, -, hcfg, -⟩ := hc.keeps
  rw [hcfg]
  obtain hsame | ⟨-, bs, hfits, hstore⟩ := hc.memory
  · rwa [hsame]
  · rw [hstore]; exact Memory.wf_writeAll bs hwf hfits

/-- An instruction that was fetched, run while the block does not wait, keeps the invariant. -/
theorem State.Inv.exec (h : s.Inv) (hidle : s.wait = .idle) (hpc : s.pc.toNat ≤ 4094) (ht : exec i s = .next t) :
    t.Inv := by
  obtain ⟨k, rfl⟩ | hc := exec_next ht
  · exact h.latched k
  obtain ⟨hfault, hhalted, -⟩ := hc.keeps
  refine ⟨hc.memory_wf h.memory, ?_, hc.pc_le hpc h.stack, hc.stack_le hpc h.stack, fun hwaits => ?_⟩
  · rw [hhalted, hfault]; exact h.latch
  · obtain hsame | ⟨-, hstays⟩ := hc.wait
    · exact absurd (hsame.trans hidle) hwaits
    · rwa [hstays]

theorem State.pc_le_of_fetch {op : Word} (h : s.fetch = some op) : s.pc.toNat ≤ 4094 := by
  rw [State.fetch_eq, Option.ite_none_right_eq_some] at h
  obtain ⟨hin, -⟩ := h
  exact Nat.le_of_lt_succ (Nat.lt_of_succ_lt_succ hin)

theorem State.Inv.cycle (h : s.Inv) (ht : cycle Machine.exec s = .next t) : t.Inv := by
  obtain ⟨rfl, -⟩ | ⟨-, hidle, ⟨-, rfl⟩ | ⟨-, -, -, -, rfl⟩ | ⟨op, i, hfetch, -, hexec⟩⟩ := cycle_next ht
  · exact h
  · exact h.closeLoad.latched _
  · exact h.closeLoad.latched _
  · exact h.closeLoad.exec hidle (State.pc_le_of_fetch hfetch) hexec

theorem State.Inv.transact {tr : Transaction} (h : s.Inv) (ht : transact Machine.exec tr s = .next t) : t.Inv := by
  cases tr with
  | reset => cases ht; exact .of_reset s.cfg s.draws s.pending
  | load bytes => exact h.loadProgram ht
  | step => exact h.cycle ht
  | tick => cases ht; exact h.tick
  | keyEvent k down => cases ht; exact h.keyEvent k down
  | present => cases ht; exact h.present

end

/-- Settles O15: a step is one transaction (`step_eq_transact`), and each of the six keeps the invariant. -/
theorem everyStepKeepsTheInvariant : Obligations.EveryStepKeepsTheInvariant := by
  intro s t h hstep
  obtain ⟨tr, rest, htr⟩ := step_eq_transact s
  exact (h.dequeue rest).transact (htr.symm.trans hstep)

end Sys2Proof.Machine
end

section
/-! PROOFS. What a program cannot observe (10_state.md R41): `ST`, `dirty` and the stale stack slots. -/

namespace Sys2Proof.Machine

/-- `u` is `s` but for what a program cannot observe: the sound timer, `dirty`, and the stack slots at and above `SP`. -/
structure State.LooksLike (u s : State) : Prop where
  rest : u = { s with st := u.st, dirty := u.dirty, stack := u.stack }
  used : ∀ j : Fin 16, j.val < s.sp.val → u.stack[j] = s.stack[j]

/-- Both results are next states, and the second looks like the first. -/
def ResultsLookAlike (r r' : Result) : Prop := ∃ t w, r = .next t ∧ r' = .next w ∧ w.LooksLike t

/-- The states that look like `s`, with the hidden fields named. -/
theorem State.LooksLike.cases {u s : State} (h : u.LooksLike s) : ∃ st dirty stack,
    u = { s with st := st, dirty := dirty, stack := stack } ∧ ∀ j : Fin 16, j.val < s.sp.val → stack[j] = s.stack[j] :=
  ⟨u.st, u.dirty, u.stack, h.rest, h.used⟩

theorem State.LooksLike.next {t w : State} (h : w.LooksLike t) : ResultsLookAlike (.next t) (.next w) :=
  ⟨t, w, rfl, rfl, h⟩

section
variable {s u : State} (h : u.LooksLike s)
include h

theorem State.LooksLike.latch (k : FaultKind) : (u.latch k).LooksLike (s.latch k) := by
  obtain ⟨st, dirty, stack, rfl, hused⟩ := h.cases
  exact ⟨rfl, hused⟩

theorem State.LooksLike.goto (a : Word) : (u.goto a).LooksLike (s.goto a) := by
  obtain ⟨st, dirty, stack, rfl, hused⟩ := h.cases
  exact ⟨rfl, hused⟩

theorem State.LooksLike.skipIf (taken : Bool) : (u.skipIf taken).LooksLike (s.skipIf taken) := by
  obtain ⟨st, dirty, stack, rfl, hused⟩ := h.cases
  cases taken <;> exact ⟨rfl, hused⟩

/-- Where an operation gives the same value in both states, the faults are alike, and so are the results if the uses of the
value are. -/
theorem State.LooksLike.orRaise {α : Type} {k : FaultKind} {r : Option α} {f g : α → Result}
    (hfg : ∀ a, r = some a → ResultsLookAlike (f a) (g a)) : ResultsLookAlike (orRaise k s r f) (orRaise k u r g) := by
  cases r with
  | none => exact (h.latch k).next
  | some a => exact hfg a rfl

/-- Memory, and so a store into it, is the same in both states. -/
theorem State.LooksLike.store (k : FaultKind) (a : Nat) (bs : List Byte) :
    ResultsLookAlike (Machine.orRaise k s (s.storeBlock a bs) fun t => .next t.advance)
      (Machine.orRaise k u (u.storeBlock a bs) fun t => .next t.advance) := by
  obtain ⟨st, dirty, stack, rfl, hused⟩ := h.cases
  rw [State.storeBlock_eq, State.storeBlock_eq]
  split
  · exact ⟨_, _, rfl, rfl, rfl, hused⟩
  · exact (h.latch k).next

/-- The slot a push writes is in use afterwards and holds the same address in both states. -/
theorem State.LooksLike.call (nnn : Addr12) : ResultsLookAlike (exec (.call nnn) s) (exec (.call nnn) u) := by
  obtain ⟨st, dirty, stack, rfl, hused⟩ := h.cases
  simp only [exec, execCall, State.push]
  split
  · next hfree =>
    refine State.LooksLike.next ⟨rfl, fun j hj => ?_⟩
    have hj : j.val < s.sp.val + 1 := hj
    simp only [State.goto_stack, Fin.getElem_fin, Vector.getElem_set]
    split
    · rfl
    · exact hused j (by omega)
  · exact (h.latch _).next

/-- The slot a pop reads is in use, so both states pop the same address. -/
theorem State.LooksLike.ret : ResultsLookAlike (exec .ret s) (exec .ret u) := by
  obtain ⟨st, dirty, stack, rfl, hused⟩ := h.cases
  simp only [exec, execRet, State.pop]
  split
  · next hpos =>
    have hsame : stack[s.sp.val - 1] = s.stack[s.sp.val - 1] := hused ⟨s.sp.val - 1, by omega⟩ (by simp; omega)
    rw [orRaise_some, orRaise_some, hsame]
    exact State.LooksLike.next ⟨rfl, fun j hj => hused j (by simp at hj; omega)⟩
  · exact (h.latch _).next

/-- No instruction lets what a program cannot observe influence anything else. -/
theorem State.LooksLike.exec (i : Instr) : ResultsLookAlike (exec i s) (exec i u) := by
  obtain ⟨st, dirty, stack, rfl, hused⟩ := h.cases
  cases i with
  | call nnn => exact h.call nnn
  | ret => exact h.ret
  | sys nnn =>
    simp only [Machine.exec, execSys]
    split
    · exact (h.latch _).next
    · exact (h.goto _).next
  | jpV0 nnn => exact h.orRaise fun a _ => (h.goto a).next
  | seImm | sneImm | seReg | sneReg => exact (h.skipIf _).next
  | skp x => exact h.orRaise fun down _ => (h.skipIf down).next
  | sknp x => exact h.orRaise fun down _ => (h.skipIf !down).next
  | ldB x => exact h.store _ _ _
  | ldMemVx x => exact h.store _ _ _
  | ldVxMem x =>
    simp only [Machine.exec, execLdVxMem, State.loadBlock_eq]
    exact h.orRaise fun bs _ => ⟨_, _, rfl, rfl, rfl, hused⟩
  | drw x y n =>
    simp only [Machine.exec, execDrw, State.loadBlock_eq]
    exact h.orRaise fun bs _ => ⟨_, _, rfl, rfl, rfl, hused⟩
  | _ => exact ⟨_, _, rfl, rfl, rfl, hused⟩

end

/-- Settles O20: `State.LooksLike.exec`, with the relation written out. -/
theorem unobservableStateDoesNotInterfere : Obligations.UnobservableStateDoesNotInterfere := by
  intro i s u hrest hused
  obtain ⟨t, w, ht, hw, hlook⟩ := State.LooksLike.exec ⟨hrest, hused⟩ i
  exact ⟨t, w, ht, hw, hlook.rest, hlook.used⟩

end Sys2Proof.Machine
end

section
/-! PROOFS. The frame of every instruction (10_state.md R21, R22, R27, R33, R40): the general registers, the flag register, the
other state, the program counter. -/

namespace Sys2Proof.Machine

section
variable {i : Instr} {s t : State}

/-- An instruction that leaves the block unhalted has completed. -/
theorem exec_completes (ht : exec i s = .next t) (hrun : t.halted = false) : Completes s i t := by
  obtain ⟨k, rfl⟩ | hc := exec_next ht
  · cases hrun
  · exact hc

/-! ### General registers -/

variable {x r : Nibble} {b : Byte} {f : Bool}

theorem State.eq_of_reg_setReg_ne (h : (s.setReg x b).reg r ≠ s.reg r) : r = x := by
  by_contra hne
  exact h ((s.reg_setReg x r b).trans (if_neg (Ne.symm hne)))

theorem State.eq_of_reg_setFlag_ne (h : (s.setFlag f).reg r ≠ s.reg r) : r = 15 := State.eq_of_reg_setReg_ne h

theorem State.eq_or_eq_of_reg_resultThenFlag_ne (h : (s.resultThenFlag x b f).reg r ≠ s.reg r) : r = x ∨ r = 15 := by
  refine or_iff_not_imp_left.2 fun hx => State.eq_of_reg_setFlag_ne fun hflag => h (hflag.trans ?_)
  exact not_not.1 fun hreg => hx (State.eq_of_reg_setReg_ne hreg)

theorem State.eq_or_eq_of_reg_flagThenShift_ne {g : Byte → Byte} (h : (s.flagThenShift x f g).reg r ≠ s.reg r) :
    r = x ∨ r = 15 := by
  refine or_iff_not_imp_right.2 fun hflag => State.eq_of_reg_setReg_ne fun hreg => h (hreg.trans ?_)
  exact not_not.1 fun hne => hflag (State.eq_of_reg_setFlag_ne hne)

theorem State.lt_of_reg_setRegBlock_ne {bs : List Byte} (h : (s.setRegBlock bs).reg r ≠ s.reg r) : r.toNat < bs.length := by
  by_contra hbeyond
  exact h ((s.setRegBlock_reg bs r).trans (dif_neg hbeyond))

end

/-- Settles O16: after a fault no register differs; after a completion the register that differs is one its update writes. -/
theorem registerFrame : Obligations.RegisterFrame := by
  intro i s t r ht hr
  obtain ⟨k, rfl⟩ | hc := exec_next ht
  · exact absurd rfl hr
  cases hc with
  | ldImm | addImm | ldReg | rnd | ldVxDt => exact State.eq_of_reg_setReg_ne hr
  | orReg | andReg | xorReg | addReg | sub | subn => exact State.eq_or_eq_of_reg_resultThenFlag_ne hr
  | shr | shl => exact State.eq_or_eq_of_reg_flagThenShift_ne hr
  | drw => exact State.eq_of_reg_setFlag_ne hr
  | ldVxMem x _ =>
    have hblock := State.lt_of_reg_setRegBlock_ne hr
    rw [Memory.length_readAll] at hblock
    exact Nat.le_of_lt_succ hblock
  | seImm | sneImm | seReg | sneReg | skp | sknp => exact hr (State.skipIf_reg s _ r)
  | _ => exact hr rfl

/-! ### The flag register -/

theorem flagByte_cases (f : Bool) : flagByte f = 0 ∨ flagByte f = 1 := by
  cases f with
  | false => exact .inl rfl
  | true => exact .inr rfl

theorem State.flag_setFlag (s : State) (f : Bool) : (s.setFlag f).reg 15 = flagByte f := s.reg_setFlag 15 f

theorem State.flag_resultThenFlag (s : State) (x : Nibble) (b : Byte) (f : Bool) :
    (s.resultThenFlag x b f).reg 15 = flagByte f := (s.setReg x b).flag_setFlag f

/-- A shift of VF itself shifts the flag just written (92_eei_decisions.md D10). -/
theorem State.flag_flagThenShift (s : State) (x : Nibble) (f : Bool) (g : Byte → Byte) :
    (s.flagThenShift x f g).reg 15 = if x = 15 then g (flagByte f) else flagByte f := by
  rw [State.flagThenShift_eq, State.advance_reg, State.reg_setReg, State.flag_setFlag]
  split
  · next hx => rw [hx, State.flag_setFlag]
  · rfl

theorem State.flag_shiftRight (s : State) (x : Nibble) (f : Bool) :
    (s.flagThenShift x f (fun b => b >>> 1)).reg 15 = 0 ∨ (s.flagThenShift x f (fun b => b >>> 1)).reg 15 = 1 := by
  rw [State.flag_flagThenShift]
  by_cases hx : x = 15
  · left
    rw [if_pos hx]
    cases f <;> rfl
  · rw [if_neg hx]
    exact flagByte_cases f

theorem State.flag_shiftLeft (s : State) (x : Nibble) (f : Bool) :
    (s.flagThenShift x f (fun b => b <<< 1)).reg 15 = 0 ∨
      if x = 15 then (s.flagThenShift x f (fun b => b <<< 1)).reg 15 = 2
      else (s.flagThenShift x f (fun b => b <<< 1)).reg 15 = 1 := by
  rw [State.flag_flagThenShift]
  by_cases hx : x = 15
  · simp only [if_pos hx]
    cases f with
    | false => exact .inl rfl
    | true => exact .inr rfl
  · simp only [if_neg hx]
    exact flagByte_cases f

/-- Settles O19: what the flag-writing instructions leave in VF is read off the flag they write; every other instruction
leaves VF alone by `registerFrame`. -/
theorem flagRegisterIsAFlag : Obligations.FlagRegisterIsAFlag := by
  intro i s t _ ht hrun
  have hframe := registerFrame i s t 15 ht
  cases exec_completes ht hrun with
  | orReg | andReg | xorReg => exact State.flag_resultThenFlag s _ _ false
  | addReg | sub | subn =>
    rw [State.flag_resultThenFlag]
    exact flagByte_cases _
  | drw =>
    rw [State.advance_reg, State.commitDrawing_eq, State.flag_setFlag]
    exact flagByte_cases _
  | shr x y => exact State.flag_shiftRight s x _
  | shl x y => exact State.flag_shiftLeft s x _
  | ldImm | addImm | ldReg | rnd | ldVxDt => exact or_iff_not_imp_right.2 fun hne => (hframe hne).symm
  | ldVxMem x _ =>
    refine or_iff_not_imp_right.2 fun hne => BitVec.eq_of_toNat_eq ?_
    have hle : 15 ≤ x.toNat := hframe hne
    have hlt := x.isLt
    exact le_antisymm (Nat.le_of_lt_succ hlt) hle
  | _ => exact not_not.1 hframe

/-! ### The other state -/

/-- Settles O17: a fault changes nothing but the latch; after a completion each clause is what `Completes` says of that piece
of state. -/
theorem stateFrame : Obligations.StateFrame := by
  intro i s t ht
  obtain ⟨k, rfl⟩ | hc := exec_next ht
  · have hsame : s.sameMemory (s.latch k) := fun _ => rfl
    simp [hsame]
  obtain ⟨hfault, -, hkeys, hcfg, hpending, hloadOpen⟩ := hc.keeps
  refine ⟨fun hmem => ?_, hc.index.resolve_left, hc.sp.resolve_left, fun hstack => (hc.stack.resolve_left hstack).1,
    hc.dt.resolve_left, hc.st.resolve_left, fun hdisplay => hc.display.resolve_left ?_,
    fun hwait => (hc.wait.resolve_left hwait).1, fun hne => absurd hfault hne, hc.draws.resolve_left,
    hkeys, hcfg, hpending, hloadOpen⟩
  · refine (hc.memory.resolve_left fun hsame => hmem fun a => ?_).1
    simp only [State.memRead, hcfg, hsame]
  · rintro ⟨hfb, hdirty⟩
    exact hdisplay.elim (· hfb) (· hdirty)

/-! ### The program counter -/

/-- A skip moves `pc` on by one instruction or by two. -/
theorem State.skipIf_pc_cases (s : State) (taken : Bool) :
    (s.skipIf taken).pc = s.pc + 2 ∨ (s.skipIf taken).pc = s.pc + 4 := by
  cases taken with
  | false => exact .inl rfl
  | true => exact .inr (BitVec.add_assoc s.pc 2 2)

/-- Settles O18: a fault leaves `pc`, and no completion halts; the skips go through `State.skipIf_pc_cases`. -/
theorem programCounterFrame : Obligations.ProgramCounterFrame := by
  intro i s t hrun ht
  obtain ⟨k, rfl⟩ | hc := exec_next ht
  · exact ⟨fun _ => rfl, nofun⟩
  obtain ⟨-, hhalted, -⟩ := hc.keeps
  refine ⟨fun hhalt => ?_, fun _ => ?_⟩
  · rw [hhalted, hrun] at hhalt
    cases hhalt
  · cases hc with
    | jp | call | ret | jpV0 => trivial
    | seImm | sneImm | seReg | sneReg | skp | sknp => exact s.skipIf_pc_cases _
    | _ => rfl

end Sys2Proof.Machine
end

section
/-! PROOFS. The state after reset, piece by piece (10_state.md R36, R39). -/

namespace Sys2Proof.Machine

/-- With the font at address 0 an unlisted byte is the font's byte at that address, and 0 beyond the font. -/
theorem Memory.resetByte_eq_getD {c : Config} (hbase : c.fontBase.val = 0) (a : Nat) :
    Memory.resetByte c a = c.fontRom.toList.getD a 0 := by
  unfold Memory.resetByte
  by_cases ha : a < 80 <;> simp [hbase, ha]

/-- Settles O55: each piece of state by evaluation, memory by `Memory.resetByte_eq_getD`. -/
theorem startStateIsTheResetState : Obligations.StartStateIsTheResetState := by
  refine ⟨rfl, rfl, rfl, rfl, by decide, rfl, rfl, by decide, rfl, rfl, ?_, rfl, by decide, rfl, rfl, rfl, ?_, ?_⟩
  · intro y x
    simp [State.reset]
  · intro a ha
    exact if_neg (not_lt.2 ha)
  · intro a ha
    rw [State.memRead, if_pos ha]
    exact congrArg some (Memory.resetByte_eq_getD rfl a)

end Sys2Proof.Machine
end

section
/-! PROOFS. Memory (20_memory.md): the law of one byte, the fetch, and a store seen by the fetch. -/

namespace Sys2Proof.Machine

section
variable {s t : State} {a : Nat} {b : Byte}

/-! ### One byte (R62, R63) -/

theorem State.memRead_of_lt (h : a < memSize) : ∃ b, s.memRead a = some b := ⟨Memory.read s.cfg s.mem a, if_pos h⟩

theorem State.memRead_of_le (h : memSize ≤ a) : s.memRead a = none := if_neg (not_lt.2 h)

theorem State.memWrite_of_lt (h : a < memSize) : ∃ t, s.memWrite a b = some t := ⟨_, if_pos h⟩

theorem State.memWrite_of_le (h : memSize ≤ a) : s.memWrite a b = none := if_neg (not_lt.2 h)

/-- Read after a write that succeeded, at every address. -/
theorem State.memRead_memWrite (h : s.memWrite a b = some t) (x : Nat) :
    t.memRead x = if x = a then some b else s.memRead x := by
  obtain ⟨hin, rfl⟩ := State.memWrite_eq_some.1 h
  simp only [State.memRead, Memory.read_write]
  by_cases hx : x = a
  · simp [hx, hin]
  · simp [hx]

theorem State.memWrite_frame (h : s.memWrite a b = some t) : t = { s with mem := t.mem } := by
  obtain ⟨-, rfl⟩ := State.memWrite_eq_some.1 h
  rfl

/-- FX55 with an address above 4095 takes the fault (42_index_memory.md R174, D17). -/
theorem exec_ldMemVx_of_beyond {x : Nibble} (h : memSize ≤ s.dataAddr + x.toNat) :
    exec (.ldMemVx x) s = .next (s.latch .addressOutOfRange) := by
  have hbeyond : ¬((s.regBlock x).length = 0 ∨ s.dataAddr + (s.regBlock x).length ≤ memSize) := by
    rw [State.length_regBlock]; omega
  rw [exec, execLdMemVx, State.storeBlock_eq, if_neg hbeyond, orRaise_none]

/-- FX65 with an address above 4095 takes the fault (42_index_memory.md R175, D17). -/
theorem exec_ldVxMem_of_beyond {x : Nibble} (h : memSize ≤ s.dataAddr + x.toNat) :
    exec (.ldVxMem x) s = .next (s.latch .addressOutOfRange) := by
  have hbeyond : ¬(x.toNat + 1 = 0 ∨ s.dataAddr + (x.toNat + 1) ≤ memSize) := by omega
  rw [exec, execLdVxMem, State.loadBlock_eq, if_neg hbeyond, orRaise_none]

end

/-- Settles O42: the write succeeds exactly inside memory, and `State.memRead_memWrite` says what is read after it. -/
theorem readAfterWrite : Obligations.ReadAfterWrite := by
  intro s a b
  refine ⟨fun hin => ?_,
    fun hbeyond => ⟨State.memWrite_of_le hbeyond, State.memRead_of_le hbeyond, fun hindex => ?_⟩⟩
  · have hlt : a < memSize := Nat.lt_succ_of_le hin
    obtain ⟨t, ht⟩ := State.memWrite_of_lt (s := s) (b := b) hlt
    refine ⟨t, ht, ?_, fun c hc => ?_, State.memWrite_frame ht, State.memRead_of_lt hlt⟩
    · rw [State.memRead_memWrite ht, if_pos rfl]
    · rw [State.memRead_memWrite ht, if_neg hc]
  · have hdata : memSize ≤ s.dataAddr + (0 : Nibble).toNat := hbeyond.trans_eq hindex.symm
    exact ⟨_, _, exec_ldMemVx_of_beyond hdata, exec_ldVxMem_of_beyond hdata, rfl, rfl⟩

/-! ### The fetch (R64, R66) -/

section
variable {s : State}

theorem State.fetch_of_memRead {hi lo : Byte} (hhi : s.memRead s.pc.toNat = some hi)
    (hlo : s.memRead (s.pc.toNat + 1) = some lo) : s.fetch = some (hi ++ lo) := by
  simp only [State.fetch, hhi, hlo, wordOfBytes]

/-- Both bytes of the word lie in memory where `pc` is at most 4094. -/
theorem State.fetch_of_lt (h : s.pc.toNat < 4095) : ∃ hi lo : Byte, s.memRead s.pc.toNat = some hi ∧
    s.memRead (s.pc.toNat + 1) = some lo ∧ s.fetch = some (hi ++ lo) := by
  obtain ⟨hi, hhi⟩ := State.memRead_of_lt (s := s) (h.trans (by decide))
  obtain ⟨lo, hlo⟩ := State.memRead_of_lt (s := s) (Nat.succ_lt_succ h)
  exact ⟨hi, lo, hhi, hlo, State.fetch_of_memRead hhi hlo⟩

/-- From 4095 on the second byte of the word lies beyond memory. -/
theorem State.fetch_of_le (h : 4095 ≤ s.pc.toNat) : s.fetch = none := by
  rw [State.fetch_eq, if_neg (not_lt.2 (Nat.succ_le_succ h))]

@[simp] theorem State.closeLoad_fetch (s : State) : s.closeLoad.fetch = s.fetch := rfl

/-- A `Step` of a running block whose fetch fails. -/
theorem cycle_fetch_none (hrun : s.running) (h : s.fetch = none) :
    cycle exec s = .next (s.closeLoad.latch .addressOutOfRange) := by
  obtain ⟨hhalted, hidle⟩ := hrun
  rw [cycle_running hhalted hidle, fetchAndRun, State.closeLoad_fetch, h, orRaise_none]

/-- A `Step` of a running block whose fetch gives the word `op`. -/
theorem cycle_fetch_some {op : Word} (hrun : s.running) (h : s.fetch = some op) :
    cycle exec s = decodeAndRun exec s.closeLoad op := by
  obtain ⟨hhalted, hidle⟩ := hrun
  rw [cycle_running hhalted hidle, fetchAndRun, State.closeLoad_fetch, h, orRaise_some]

end

/-- Settles O8: `State.fetch_of_lt` below 4095; from there on `State.fetch_of_le` and what a `Step` does with it. -/
theorem fetchIsBigEndianAndChecked : Obligations.FetchIsBigEndianAndChecked := by
  intro s
  refine ⟨State.fetch_of_lt, fun h => ⟨State.fetch_of_le h, fun hrun => ?_⟩⟩
  rw [transact_step, cycle_fetch_none hrun (State.fetch_of_le h)]
  rfl

/-! ### A store seen by the fetch (R71) -/

section
variable {i : Instr} {s t : State} {bs : List Byte} {x : Nibble}

/-- The decimal digits of a byte are unique. -/
theorem Stores.eq_bcdDigits (h : Stores (.ldB x) s bs) : bs = bcdDigits (s.reg x) := by
  obtain ⟨hundreds, tens, units, htens, hunits, hvalue, rfl⟩ := h
  have h1 : (s.reg x).toNat / 100 = hundreds := by omega
  have h2 : (s.reg x).toNat / 10 % 10 = tens := by omega
  have h3 : (s.reg x).toNat % 10 = units := by omega
  rw [bcdDigits, h1, h2, h3]

/-- The registers `V0..Vx`, byte by byte. -/
theorem Stores.eq_regBlock (h : Stores (.ldMemVx x) s bs) : bs = s.regBlock x := by
  obtain ⟨hlength, hbytes⟩ := h
  refine List.ext_getElem (hlength.trans (s.length_regBlock x).symm) fun k hk hk' => ?_
  have hx := x.isLt
  have htoNat : (BitVec.ofNat 4 k).toNat = k := Nat.mod_eq_of_lt (by omega)
  have hbyte := hbytes (BitVec.ofNat 4 k) (by omega)
  rw [htoNat, List.getElem?_eq_getElem hk] at hbyte
  rw [State.getElem_regBlock]
  exact Option.some.inj hbyte

/-- FX33 and FX55 are one block store each, and the advance. -/
theorem Stores.exec_eq (h : Stores i s bs) :
    exec i s = orRaise .addressOutOfRange s (s.storeBlock s.dataAddr bs) fun t => .next t.advance := by
  cases i with
  | ldB x => rw [h.eq_bcdDigits]; rfl
  | ldMemVx x => rw [h.eq_regBlock]; rfl
  | _ => exact h.elim

/-- What a store that fits into memory leaves: `pc` at the next instruction, and every byte as `byteAfterStore` says. -/
theorem Stores.next (h : Stores i s bs) (hfits : s.dataAddr + bs.length ≤ memSize) (ht : exec i s = .next t) :
    t.pc = s.pc + 2 ∧ ∀ a, t.memRead a = byteAfterStore s bs a := by
  rw [h.exec_eq] at ht
  obtain ⟨hnone, -⟩ | ⟨w, hstore, hw⟩ := orRaise_next ht
  · rw [State.storeBlock_eq, if_pos (.inr hfits)] at hnone
    cases hnone
  · cases hw
    obtain ⟨hframe, hbytes⟩ := State.storeBlock_bytes hstore
    refine ⟨congrArg (·.pc + 2) hframe, fun a => ?_⟩
    rw [State.advance_memRead, hbytes, byteAfterStore]
    split
    · exact (List.getElem?_eq_getElem _).symm
    · rfl

end

/-- Settles O41: `Stores.next` says what every byte reads as after the store, and a fetch reads two of them. -/
theorem storeIsSeenByTheNextFetch : Obligations.StoreIsSeenByTheNextFetch := by
  intro s t i bs hstores hfits ht
  obtain ⟨hpc, hmem⟩ := hstores.next hfits ht
  refine ⟨hpc, fun u hsame hin => ?_, fun hi lo hhi hlo hrun hnone => ?_⟩
  · obtain ⟨hi, lo, hhi, hlo, hfetch⟩ := State.fetch_of_lt (Nat.lt_of_succ_le hin)
    rw [hsame, hmem] at hhi hlo
    exact ⟨hi, lo, hhi, hlo, hfetch⟩
  · rw [← hmem] at hhi hlo
    rw [step_nil hnone, cycle_fetch_some hrun (State.fetch_of_memRead hhi hlo)]
    split
    · next j hj => exact decodeAndRun_ok hj
    · next e he => exact decodeAndRun_error he

end Sys2Proof.Machine
end

section
/-! PROOFS. Decoding and encoding (30_encoding.md): the decoder by primary opcode, and that it and the encoder are inverse. -/

namespace Sys2Proof

/-! ### The decoder by primary opcode (R98) -/

theorem ne_of_topNibble_ne {op p : Word} (h : topNibble op ≠ topNibble p) : op ≠ p := fun hp => h (congrArg topNibble hp)

/-- Settles O3, by the value of the primary opcode, where it is 8 also by the value of the sub-opcode: in each case the tests of
`decodeWord_chain` are decided but for those that the map makes itself. -/
theorem decodeByPrimaryOpcode : Obligations.DecodeByPrimaryOpcode := by
  intro op
  rw [decodeWord_chain]
  obtain hzero | hne := eq_or_ne (topNibble op) 0
  · simp [hzero]
  rw [if_neg (ne_of_topNibble_ne hne), if_neg (ne_of_topNibble_ne hne)]
  unfold topNibble at hne ⊢
  generalize op.extractLsb' 12 4 = t at hne ⊢
  obtain ⟨⟨t, _⟩⟩ := t
  interval_cases t
  · exact absurd rfl hne
  -- Opcode 8 first: of the clauses for 1 to 15 it alone is told apart further by the value of a field.
  pick_goal 8
  · obtain ⟨⟨n, _⟩⟩ := fieldN op
    interval_cases n <;> simp
  all_goals simp

/-! ### Decoding an encoded instruction -/

theorem sys_wellFormed {nnn : Addr12} : (Instr.sys nnn).wellFormed = true ↔ nnn ≠ 0x0E0 ∧ nnn ≠ 0x0EE := by
  simp [Instr.wellFormed]

/-- Settles O1, constructor by constructor: the primary opcode and the sub-opcode of the encoded word select the clause of
`decodeByPrimaryOpcode`, and the word's fields are the operands. Only `sys` shares its opcode with other rows. -/
theorem decodeOfEncodeIsInstruction : Obligations.DecodeOfEncodeIsInstruction := by
  intro i hwf
  rw [decodeByPrimaryOpcode (encode i)]
  cases i with
  | cls => rfl
  | ret => rfl
  | sys nnn =>
    obtain ⟨hcls, hret⟩ : nnn ≠ 0x0E0 ∧ nnn ≠ 0x0EE := sys_wellFormed.1 hwf
    have hne {a : Addr12} (h : nnn ≠ a) : encodeA 0x0 nnn ≠ encodeA 0x0 a := fun he => h (encodeA_inj.1 he).2
    simp only [encode, topNibble_encodeA, fieldNNN_encodeA]
    exact (if_neg (hne hcls)).trans (if_neg (hne hret))
  | _ => simp [encode]

/-! ### Encoding a decoded word -/

/-- A word that decodes is of some row, and the row built its instruction. -/
theorem exists_row_of_decodeWord {op : Word} {i : Instr} (h : decodeWord op = .ok i) :
    ∃ r ∈ opcodeTable, r.matches op = true ∧ r.build op = i := by
  unfold decodeWord at h
  split at h
  next r hr => exact ⟨r, List.mem_of_find?_eq_some hr, by simpa using List.find?_some hr, Except.ok.inj h⟩
  next => cases h

/-- What the row builds from a word of the row encodes to that word. -/
def OpcodeRow.Faithful (r : OpcodeRow) : Prop := ∀ op, r.matches op = true → encode (r.build op) = op

section
variable {p : Word} {b : Word → Instr}

/-! One lemma per format of R93: a row whose instruction the encoder writes in that format, under the format's mask. -/

theorem OpcodeRow.Faithful.word {i : Instr} (h : encode i = p := by rfl) : Faithful ⟨0xFFFF, p, fun _ => i⟩ :=
  fun _ hm => h.trans (matches_FFFF.1 hm).symm

theorem OpcodeRow.Faithful.formatA (h : ∀ op, encode (b op) = encodeA (topNibble p) (fieldNNN op) := by exact fun _ => rfl)
    (hp : fieldNNN p = 0 := by rfl) : Faithful ⟨0xF000, p, b⟩ := fun op hm => by
  rw [h, ← (matches_F000 hp).1 hm, encodeA_fields]

theorem OpcodeRow.Faithful.formatXI
    (h : ∀ op, encode (b op) = encodeXI (topNibble p) (fieldX op) (fieldNN op) := by exact fun _ => rfl)
    (hp : fieldNNN p = 0 := by rfl) : Faithful ⟨0xF000, p, b⟩ := fun op hm => by
  rw [h, ← (matches_F000 hp).1 hm, encodeXI_fields]

theorem OpcodeRow.Faithful.formatXYN
    (h : ∀ op, encode (b op) = encodeXYN (topNibble p) (fieldX op) (fieldY op) (fieldN op) := by exact fun _ => rfl)
    (hp : fieldNNN p = 0 := by rfl) : Faithful ⟨0xF000, p, b⟩ := fun op hm => by
  rw [h, ← (matches_F000 hp).1 hm, encodeXYN_fields]

theorem OpcodeRow.Faithful.formatXY
    (h : ∀ op, encode (b op) = encodeXYN (topNibble p) (fieldX op) (fieldY op) (fieldN p) := by exact fun _ => rfl)
    (hx : fieldX p = 0 := by rfl) (hy : fieldY p = 0 := by rfl) : Faithful ⟨0xF00F, p, b⟩ := fun op hm => by
  obtain ⟨ht, hn⟩ := (matches_F00F hx hy).1 hm
  rw [h, ← ht, ← hn, encodeXYN_fields]

theorem OpcodeRow.Faithful.formatXS
    (h : ∀ op, encode (b op) = encodeXI (topNibble p) (fieldX op) (fieldNN p) := by exact fun _ => rfl)
    (hx : fieldX p = 0 := by rfl) : Faithful ⟨0xF0FF, p, b⟩ := fun op hm => by
  obtain ⟨ht, hnn⟩ := (matches_F0FF hx).1 hm
  rw [h, ← ht, ← hnn, encodeXI_fields]

end

/-- The rows of R96 in their order, each by its format. -/
theorem opcodeTable_faithful : ∀ r ∈ opcodeTable, r.Faithful := by
  simp only [opcodeTable, opcodeRows1, opcodeRows2, opcodeRows3, List.forall_mem_append, List.forall_mem_cons]
  exact ⟨⟨⟨.word, .word, .formatA, .formatA, .formatA, .formatXI, .formatXI, .formatXY, .formatXI, .formatXI,
        List.forall_mem_nil _⟩,
      .formatXY, .formatXY, .formatXY, .formatXY, .formatXY, .formatXY, .formatXY, .formatXY, .formatXY, .formatXY,
        List.forall_mem_nil _⟩,
    .formatA, .formatA, .formatXI, .formatXYN, .formatXS, .formatXS, .formatXS, .formatXS, .formatXS, .formatXS, .formatXS,
      .formatXS, .formatXS, .formatXS, .formatXS, List.forall_mem_nil _⟩

theorem encode_of_decodeWord {op : Word} {i : Instr} (h : decodeWord op = .ok i) : encode i = op := by
  obtain ⟨r, hr, hmatch, rfl⟩ := exists_row_of_decodeWord h
  exact opcodeTable_faithful r hr op hmatch

/-- A `SYS` with the field of CLS or of RET would encode to their words, which decode to them (R105). -/
theorem wellFormed_of_decodeWord {op : Word} {i : Instr} (h : decodeWord op = .ok i) : i.wellFormed = true := by
  obtain rfl := encode_of_decodeWord h
  cases i with
  | sys nnn =>
    rw [sys_wellFormed]
    constructor <;> (rintro rfl; exact absurd h (by decide))
  | _ => rfl

/-- Settles O2, by `encode_of_decodeWord` and `wellFormed_of_decodeWord`. -/
theorem encodeOfDecodeIsWord : Obligations.EncodeOfDecodeIsWord :=
  fun _ _ h => ⟨encode_of_decodeWord h, wellFormed_of_decodeWord h⟩

/-! ### Bytes -/

theorem decodeWord_of_decodeBytes {hi lo : Byte} {i : Instr} (h : decodeBytes [hi, lo] = .ok (i, [])) :
    decodeWord (hi ++ lo) = .ok i := by
  rw [decodeBytes, wordOfBytes] at h
  cases hop : decodeWord (hi ++ lo) with
  | ok j =>
    rw [hop] at h
    cases h
    rfl
  | error e =>
    rw [hop] at h
    cases h

/-- Settles O4: each of the five byte pairs decodes by evaluation. -/
theorem shownBytesDecode : Obligations.ShownBytesDecode := by
  unfold Obligations.ShownBytesDecode
  decide

end Sys2Proof
end

section
/-! PROOFS. The instruction cycle (30_encoding.md R90, R104): a `Step` at a word that decodes and at one that does not. -/

namespace Sys2Proof.Machine

/-- A `Step` of a running block at the word of `i`. -/
theorem cycle_decoded {s : State} {op : Word} {i : Instr} (hrun : s.running) (hfetch : s.fetch = some op)
    (hop : decodeWord op = .ok i) : cycle exec s = exec i s.closeLoad := by
  rw [cycle_fetch_some hrun hfetch, decodeAndRun_ok hop]

/-- A `Step` of a running block at an illegal word. -/
theorem cycle_illegal {s : State} {op : Word} {e : DecodeReject} (hrun : s.running) (hfetch : s.fetch = some op)
    (hop : decodeWord op = .error e) : cycle exec s = .next (s.closeLoad.latch .badInstruction) := by
  rw [cycle_fetch_some hrun hfetch, decodeAndRun_error hop]

/-- Settles O6: `cycle_decoded` at the state, or at the state with its first pending transaction taken off. -/
theorem stepRunsTheDecodedInstruction : Obligations.StepRunsTheDecodedInstruction := by
  intro s i hi lo hrun hhi hlo hbytes
  have hfetch : s.fetch = some (hi ++ lo) := State.fetch_of_memRead hhi hlo
  have hop : decodeWord (hi ++ lo) = .ok i := decodeWord_of_decodeBytes hbytes
  refine ⟨fun hnone => ?_, fun rest hfirst => ?_⟩
  · rw [step_nil hnone, cycle_decoded hrun hfetch hop]
    rfl
  · rw [step_cons hfirst, transact_step, cycle_decoded (s := s.dequeue rest) hrun hfetch hop]
    rfl

/-- A decoder that tests `p` rejects where the test fails and the rest rejects. -/
theorem exists_error_ite_ok {p : Prop} [Decidable p] {i : Instr} {r : Except DecodeReject Instr} :
    (∃ e, (if p then .ok i else r) = .error e) ↔ ¬p ∧ ∃ e, r = .error e := by
  by_cases h : p <;> simp [h]

/-- Settles O5: which words are illegal, by the value of the primary opcode as in `decodeByPrimaryOpcode`; what a `Step` does
with one, by `cycle_illegal`. -/
theorem illegalWordRaisesBadInstruction : Obligations.IllegalWordRaisesBadInstruction := by
  intro op
  refine ⟨?_, fun s hrun hfetch ⟨e, he⟩ => ?_⟩
  · rw [decodeByPrimaryOpcode op]
    obtain ⟨⟨t, _⟩⟩ := op.extractLsb' 12 4
    interval_cases t
    -- Opcode 8 first, the ninth of 0 to 15.
    pick_goal 9
    · obtain ⟨⟨n, _⟩⟩ := fieldN op
      interval_cases n <;> simp
    all_goals simp [exists_error_ite_ok, BitVec.toNat_eq]
  · rw [transact_step, cycle_illegal hrun hfetch he]
    rfl

end Sys2Proof.Machine
end

section
/-! PROOFS. The rows of the opcode table (30_encoding.md R96) as claims about the decoder. -/

namespace Sys2Proof.Machine

/-- A word of a row is the encoding of what the row builds from it, so it decodes to that if that is well-formed. -/
theorem decodeWord_of_row {r : OpcodeRow} {op : Word} (hr : r ∈ opcodeTable) (hmatch : r.matches op = true)
    (hwf : (r.build op).wellFormed = true) : decodeWord op = .ok (r.build op) := by
  have h := decodeOfEncodeIsInstruction (r.build op) hwf
  rwa [opcodeTable_faithful r hr op hmatch] at h

/-- A row by its place in the table, counted from 0. Only the row of `SYS` builds an instruction that may be ill-formed. -/
theorem decodesAs_row (k : Nat) (hk : k < opcodeTable.length) (hwf : ∀ op, (opcodeTable[k].build op).wellFormed = true) :
    DecodesAs opcodeTable[k].mask opcodeTable[k].pattern opcodeTable[k].build :=
  fun op hop => decodeWord_of_row (List.getElem_mem hk) (beq_iff_eq.2 hop) (hwf op)

end Sys2Proof.Machine
end

section
/-! PROOFS. Control transfer (40_flow.md): `SYS`, the jumps, the skips, the call and the return. -/

namespace Sys2Proof.Machine

section
variable {s : State} {i : Instr} {a : Word} {nnn : Addr12}

/-! ### Instructions that change `pc` only -/

theorem GoesTo.of_goto (h : exec i s = .next (s.goto a)) : GoesTo i s a := ⟨s.goto a, h, fun _ => rfl, rfl⟩

theorem State.skipIf_eq_goto (s : State) (taken : Bool) :
    s.skipIf taken = s.goto (if taken then s.pc + 4 else s.pc + 2) := by
  cases taken with
  | false => rfl
  | true => exact congrArg s.goto (BitVec.add_assoc s.pc 2 2)

theorem GoesTo.of_skipIf {taken : Bool} (h : exec i s = .next (s.skipIf taken)) :
    GoesTo i s (if taken then s.pc + 4 else s.pc + 2) := .of_goto (h.trans (congrArg _ (s.skipIf_eq_goto taken)))

/-- `SYS` under SYS_POLICY = fault (R120). -/
theorem exec_sys_of_fault (h : s.cfg.sysPolicy = .fault) : exec (.sys nnn) s = .next (s.latch .badInstruction) := by
  rw [exec, execSys, h, raise_eq]

/-- `SYS` under SYS_POLICY = nop (R120). -/
theorem exec_sys_of_nop (h : s.cfg.sysPolicy = .nop) : exec (.sys nnn) s = .next s.advance := by
  rw [exec, execSys, h]

/-- `JP V0, nnn` to a target inside memory (R128). -/
theorem exec_jpV0_of_lt (h : nnn.toNat + (s.reg 0).toNat < memSize) :
    exec (.jpV0 nnn) s = .next (s.goto (BitVec.ofNat 16 (nnn.toNat + (s.reg 0).toNat))) := by
  rw [exec, execJpV0, offsetTarget, if_pos h, orRaise_some]

/-- `JP V0, nnn` to a target beyond memory (R128). -/
theorem exec_jpV0_of_le (h : memSize ≤ nnn.toNat + (s.reg 0).toNat) :
    exec (.jpV0 nnn) s = .next (s.latch .addressOutOfRange) := by
  rw [exec, execJpV0, offsetTarget, if_neg (not_lt.2 h), orRaise_none]

/-! ### The call and the return -/

/-- `CALL` with a free slot (R123). -/
theorem exec_call_of_free (free : s.sp.val < 16) : exec (.call nnn) s = .next
    ({ s with stack := s.stack.set s.sp.val (s.pc + 2) free, sp := ⟨s.sp.val + 1, by omega⟩ }.goto (zext16 nnn)) := by
  rw [exec, execCall, State.push_eq_some.2 ⟨free, rfl⟩, orRaise_some]

/-- `CALL` with all 16 slots in use (R123). -/
theorem exec_call_of_full (full : s.sp = 16) : exec (.call nnn) s = .next (s.latch .stackPointerOutOfRange) := by
  rw [exec, execCall, State.push_eq_none.2 full, orRaise_none]

/-- `RET` with a slot in use (R121). -/
theorem exec_ret_of_used (used : 0 < s.sp.val) : exec .ret s =
    .next ({ s with sp := ⟨s.sp.val - 1, by omega⟩ }.goto (s.stack[s.sp.val - 1]'(by omega))) := by
  rw [exec, execRet, State.pop_eq_some.2 ⟨used, rfl⟩, orRaise_some]

/-- `RET` with no slot in use (R121). -/
theorem exec_ret_of_empty (empty : s.sp = 0) : exec .ret s = .next (s.latch .stackPointerOutOfRange) := by
  rw [exec, execRet, State.pop_eq_none.2 empty, orRaise_none]

end

/-- Settles O21: a word with primary opcode 0 that is neither CLS nor RET fails the first two tests of `decodeWord_chain` and
meets the third; what SYS does under each policy is `exec_sys_of_fault` and `exec_sys_of_nop`. -/
theorem sysFollowsItsPolicy : Obligations.SysFollowsItsPolicy := by
  refine ⟨fun op hop hcls hret => ?_, fun s nnn => ⟨exec_sys_of_fault, fun h => .of_goto (exec_sys_of_nop h)⟩⟩
  have htop : topNibble op = 0 := (OpcodeRow.matches_F000 (b := .sys ∘ fieldNNN) rfl).1 (beq_iff_eq.2 hop)
  rw [decodeWord_chain, if_neg hcls, if_neg hret, if_pos htop]

/-- Settles O22: `exec_jpV0_of_lt` up to 4095 and `exec_jpV0_of_le` above. -/
theorem jumpsGoToTheirTargets : Obligations.JumpsGoToTheirTargets := by
  refine ⟨decodesAs_row 3 (by decide) fun _ => rfl, decodesAs_row 21 (by decide) fun _ => rfl,
    fun s nnn => ⟨.of_goto rfl, ?_, ?_⟩⟩
  · exact fun hin => .of_goto (exec_jpV0_of_lt (Nat.lt_succ_of_le hin))
  · exact fun hbeyond => exec_jpV0_of_le hbeyond

/-- Settles O23: `exec_call_of_free` with its stack read slot by slot, and `exec_call_of_full`. -/
theorem callPushesTheReturnAddress : Obligations.CallPushesTheReturnAddress := by
  refine ⟨decodesAs_row 4 (by decide) fun _ => rfl, fun s nnn => ⟨fun hfree => ?_, fun hfull => ?_⟩⟩
  · refine ⟨_, exec_call_of_free hfree, rfl, rfl, fun j => ?_, fun _ => rfl, rfl⟩
    simp only [State.goto_stack, Fin.getElem_fin, Vector.getElem_set, eq_comm]
  · exact exec_call_of_full (Fin.ext hfull)

/-- Settles O24: `exec_ret_of_used`, whose slot `SP - 1` is the `j` of the statement, and `exec_ret_of_empty`. -/
theorem returnPopsTheReturnAddress : Obligations.ReturnPopsTheReturnAddress := by
  refine ⟨decodesAs_row 1 (by decide) fun _ => rfl, fun s => ⟨fun j hj => ?_, fun hempty => ?_⟩⟩
  · have hlast : s.sp.val - 1 = j.val := by omega
    refine ⟨_, exec_ret_of_used (by omega), ?_, hlast, fun _ => rfl, rfl⟩
    simp only [State.goto_pc, Fin.getElem_fin, hlast]
  · exact exec_ret_of_empty (Fin.ext hempty)

/-- Settles O25, from O23 and O24: the slot the call wrote is in use after it, so it is still the last one in use when the
return pops it. -/
theorem callThenReturnResumesAfterTheCall : Obligations.CallThenReturnResumesAfterTheCall := by
  intro s nnn
  obtain ⟨hfree, hfull⟩ := callPushesTheReturnAddress.2 s nnn
  refine ⟨fun hdepth => ?_, hfull⟩
  obtain ⟨t, ht, hpc, hsp, hstack, -⟩ := hfree hdepth
  refine ⟨t, ht, hpc, fun u husp hused => ?_⟩
  have hlast : s.sp.val + 1 = u.sp.val := by rw [husp, hsp]
  obtain ⟨w, hw, hwpc, hwsp, -⟩ := (returnPopsTheReturnAddress.2 u).1 ⟨s.sp.val, hdepth⟩ hlast
  refine ⟨w, hw, ?_, Fin.ext hwsp⟩
  calc w.pc = u.stack[s.sp.val] := hwpc
    _ = t.stack[s.sp.val] := hused ⟨s.sp.val, hdepth⟩ hsp.ge
    _ = s.pc + 2 := (hstack ⟨s.sp.val, hdepth⟩).trans (if_pos rfl)

/-- Settles O26: each skip is one `skipIf`, on the equality or on its negation. -/
theorem skipsCompareRegisters : Obligations.SkipsCompareRegisters := by
  refine ⟨decodesAs_row 5 (by decide) fun _ => rfl, decodesAs_row 6 (by decide) fun _ => rfl,
    decodesAs_row 7 (by decide) fun _ => rfl, decodesAs_row 19 (by decide) fun _ => rfl,
    fun s x y nn => ⟨?_, ?_, ?_, ?_⟩⟩
  · simpa using GoesTo.of_skipIf (i := .seImm x nn) rfl
  · simpa using GoesTo.of_skipIf (i := .sneImm x nn) rfl
  · simpa using GoesTo.of_skipIf (i := .seReg x y) rfl
  · simpa using GoesTo.of_skipIf (i := .sneReg x y) rfl

end Sys2Proof.Machine
end

section
/-! PROOFS. The idle loop (40_flow.md R131): a `JP` to its own address. -/

namespace Sys2Proof.Machine

/-- The next `Step` runs a `JP` to its own address. -/
structure State.AtIdleLoop (s : State) : Prop where
  running : s.running
  jump : ∃ op nnn, s.fetch = some op ∧ decodeWord op = .ok (.jp nnn) ∧ zext16 nnn = s.pc

/-- `u` is `s` but for what may change during an idle loop. -/
def State.IdlesTo (s u : State) : Prop := ∃ dt st keys dirty pending loadOpen,
  u = { s with dt := dt, st := st, keys := keys, dirty := dirty, pending := pending, loadOpen := loadOpen }

theorem State.IdlesTo.refl (s : State) : s.IdlesTo s := ⟨_, _, _, _, _, _, rfl⟩

theorem State.IdlesTo.trans {s t u : State} (hst : s.IdlesTo t) (htu : t.IdlesTo u) : s.IdlesTo u := by
  obtain ⟨_, _, _, _, _, _, rfl⟩ := hst
  obtain ⟨_, _, _, _, _, _, rfl⟩ := htu
  exact ⟨_, _, _, _, _, _, rfl⟩

/-- The transactions listed are `Step`s, `Tick`s, `KeyEvent`s and `Present`s. -/
def NoResetOrLoad (ts : List Transaction) : Prop := ∀ t ∈ ts, t ≠ .reset ∧ ∀ bytes, t ≠ .load bytes

theorem run_succ {M : Host.Core} {s t : M.State} (n : Nat) (h : M.step s = .next t) : M.run (n + 1) s = M.run n t := by
  rw [Host.Core.run, h]

theorem tick_running {s : State} (h : s.running) : tick s = { s with dt := countDown s.dt, st := countDown s.st } := by
  obtain ⟨hhalted, -⟩ := h
  simp [tick, hhalted]

theorem present_running {s : State} (h : s.running) : present s = { s with dirty := false } := by
  obtain ⟨hhalted, -⟩ := h
  simp [present, hhalted]

theorem keyEvent_running {s : State} (h : s.running) (k : Nibble) (down : Bool) : keyEvent k down s = s.setKey k down := by
  obtain ⟨hhalted, hidle⟩ := h
  simp [keyEvent, hhalted, hidle]

section
variable {s : State} (h : s.AtIdleLoop)
include h

/-- Neither the memory nor `pc` changes, so the next fetch reads the jump again. -/
theorem State.AtIdleLoop.idlesTo {u : State} (hu : s.IdlesTo u) : u.AtIdleLoop := by
  obtain ⟨_, _, _, _, _, _, rfl⟩ := hu
  exact ⟨h.running, h.jump⟩

/-- A `Step` of the loop closes the window of `Load` (log 4) and changes nothing else. -/
theorem State.AtIdleLoop.cycle : cycle exec s = .next s.closeLoad := by
  obtain ⟨op, nnn, hfetch, hop, htarget⟩ := h.jump
  rw [cycle_decoded h.running hfetch hop, exec, execJp, htarget]
  rfl

theorem State.AtIdleLoop.transact {t : Transaction} (ht : t ≠ .reset ∧ ∀ bytes, t ≠ .load bytes) :
    ∃ u, transact exec t s = .next u ∧ s.IdlesTo u ∧ u.pending = s.pending := by
  obtain ⟨hreset, hload⟩ := ht
  cases t with
  | reset => exact absurd rfl hreset
  | load bytes => exact absurd rfl (hload bytes)
  | step => exact ⟨_, h.cycle, ⟨_, _, _, _, _, _, rfl⟩, rfl⟩
  | tick =>
    rw [transact_tick, tick_running h.running]
    exact ⟨_, rfl, ⟨_, _, _, _, _, _, rfl⟩, rfl⟩
  | keyEvent k down =>
    rw [transact_keyEvent, keyEvent_running h.running]
    exact ⟨_, rfl, ⟨_, _, _, _, _, _, rfl⟩, rfl⟩
  | present =>
    rw [transact_present, present_running h.running]
    exact ⟨_, rfl, ⟨_, _, _, _, _, _, rfl⟩, rfl⟩

/-- One step changes only what `IdlesTo` names, and takes at most the first transaction off the list. -/
theorem State.AtIdleLoop.step (hts : NoResetOrLoad s.pending) :
    ∃ u, step s = .next u ∧ s.IdlesTo u ∧ NoResetOrLoad u.pending := by
  cases hpending : s.pending with
  | nil =>
    rw [step_nil hpending, h.cycle]
    exact ⟨_, rfl, ⟨_, _, _, _, _, _, rfl⟩, hts⟩
  | cons t rest =>
    have hrest : s.IdlesTo (s.dequeue rest) := ⟨_, _, _, _, _, _, rfl⟩
    obtain ⟨ht, hts⟩ := List.forall_mem_cons.1 (hpending ▸ hts)
    obtain ⟨u, hu, hidles, hkeep⟩ := (h.idlesTo hrest).transact ht
    exact ⟨u, (step_cons hpending).trans hu, hrest.trans hidles, hkeep ▸ hts⟩

end

/-- The loop run for any number of steps, with such transactions pending. -/
theorem State.AtIdleLoop.run (n : Nat) {s : State} (h : s.AtIdleLoop) (hts : NoResetOrLoad s.pending) :
    ∃ u, Host.Core.run core n s = .next u ∧ s.IdlesTo u := by
  induction n generalizing s with
  | zero => exact ⟨s, rfl, .refl s⟩
  | succ n ih =>
    obtain ⟨t, hstep, hidles, hts⟩ := h.step hts
    obtain ⟨u, hrun, hidles'⟩ := ih (h.idlesTo hidles) hts
    exact ⟨u, (run_succ (M := core) n hstep).trans hrun, hidles.trans hidles'⟩

/-- With nothing pending and the window of `Load` closed, a step of the loop is the identity. -/
theorem State.AtIdleLoop.run_self (n : Nat) {s : State} (h : s.AtIdleLoop) (hnone : s.pending = [])
    (hclosed : s.loadOpen = false) : Host.Core.run core n s = .next s := by
  have hself : s.closeLoad = s := by rw [State.closeLoad, ← hclosed]
  have hstep : Machine.step s = .next s := by rw [step_nil hnone, h.cycle, hself]
  induction n with
  | zero => rfl
  | succ n ih => rw [run_succ (M := core) n hstep, ih]

/-- Settles O27, by `State.AtIdleLoop.run_self` and `State.AtIdleLoop.run`. -/
theorem idleLoopKeepsTheState : Obligations.IdleLoopKeepsTheState := by
  intro s op nnn n hrun hfetch hop htarget
  have hloop : s.AtIdleLoop := ⟨hrun, op, nnn, hfetch, hop, htarget⟩
  refine ⟨hloop.run_self n, fun ts hts => ?_⟩
  have hstart : s.IdlesTo { s with pending := ts } := ⟨_, _, _, _, _, _, rfl⟩
  obtain ⟨u, hu, hidles⟩ := (hloop.idlesTo hstart).run n hts
  obtain ⟨_, _, _, _, _, _, rfl⟩ := hstart.trans hidles
  exact ⟨_, hu, rfl⟩

end Sys2Proof.Machine
end

section
/-! PROOFS. Register load, ALU and random (41_load_alu.md): the registers after the two shared forms of a result with a flag
(R152), the flag values as numbers, and the rows R140 to R160. -/

namespace Sys2Proof.Machine

section
variable {s t : State} {i : Instr} {x : Nibble} {f : Bool}

/-! ### Registers after the shared forms of R152 -/

/-- The flag is written last, so it wins where the destination is VF (92_eei_decisions.md D9). -/
theorem State.reg_resultThenFlag (s : State) (x : Nibble) (b : Byte) (f : Bool) (r : Nibble) :
    (s.resultThenFlag x b f).reg r = if r = 15 then flagByte f else if r = x then b else s.reg r := by
  rw [State.resultThenFlag_eq, State.advance_reg, State.reg_setFlag, State.reg_setReg]
  simp only [eq_comm (a := r)]
  rfl

/-- A shift of another register reads its old value: the flag written first is not it. -/
theorem State.reg_flagThenShift_of_ne (s : State) (hx : x ≠ 15) (f : Bool) (g : Byte → Byte) (r : Nibble) :
    (s.flagThenShift x f g).reg r = if r = x then g (s.reg x) else if r = 15 then flagByte f else s.reg r := by
  have hold : (s.setFlag f).reg x = s.reg x := (s.reg_setFlag x f).trans (if_neg hx.symm)
  rw [State.flagThenShift_eq, State.advance_reg, State.reg_setReg, hold, State.reg_setFlag]
  simp only [eq_comm (a := r)]
  rfl

/-- A shift of VF shifts the flag just written (92_eei_decisions.md D10). -/
theorem State.reg_flagThenShift_flag (s : State) (f : Bool) (g : Byte → Byte) (r : Nibble) :
    (s.flagThenShift 15 f g).reg r = if r = 15 then g (flagByte f) else s.reg r := by
  split
  · next hr => rw [hr, State.flag_flagThenShift, if_pos rfl]
  · next hr => exact not_not.1 fun hne => hr ((State.eq_or_eq_of_reg_flagThenShift_ne hne).elim id id)

/-! ### Claims about one instruction -/

theorem RegsBecome.of_setReg {b result : Byte} (h : exec i s = .next (s.setReg x b).advance) (hresult : b = result) :
    RegsBecome i s fun r => if r = x then result else s.reg r := by
  refine ⟨_, h, fun r => ?_, fun _ => rfl, rfl⟩
  simp only [State.advance_reg, State.reg_setReg, hresult, eq_comm]

theorem RegsBecome.of_resultThenFlag {b result flag : Byte} (h : exec i s = .next (s.resultThenFlag x b f))
    (hresult : b = result) (hflag : flagByte f = flag) :
    RegsBecome i s fun r => if r = 15 then flag else if r = x then result else s.reg r := by
  subst hresult hflag
  exact ⟨_, h, s.reg_resultThenFlag x b f, fun _ => rfl, rfl⟩

/-- A shift: `shifted` is what it leaves in another register, `shiftedFlag` what it leaves in VF as its own operand. -/
theorem RegsBecome.of_flagThenShift {g : Byte → Byte} {shifted flag shiftedFlag : Byte}
    (h : exec i s = .next (s.flagThenShift x f g)) (hshift : g (s.reg x) = shifted) (hflag : flagByte f = flag)
    (hself : x = 15 → g (flagByte f) = shiftedFlag) :
    RegsBecome i s fun r => if x = 15 then (if r = 15 then shiftedFlag else s.reg r)
      else if r = x then shifted else if r = 15 then flag else s.reg r := by
  refine ⟨_, h, fun r => ?_, fun _ => rfl, rfl⟩
  split
  · next hx => rw [← hself hx, hx, State.reg_flagThenShift_flag]
  · next hx => rw [← hshift, ← hflag, State.reg_flagThenShift_of_ne s hx]

/-- The instruction completes, and one register is read off. -/
theorem RegsBecome.completes_with {val : Nibble → Byte} (h : RegsBecome i s val) {r : Nibble} {b : Byte} (hb : val r = b) :
    ∃ t, exec i s = .next t ∧ t.reg r = b := by
  obtain ⟨t, ht, hreg, -⟩ := h
  exact ⟨t, ht, (hreg r).trans hb⟩

/-- A register of the state the instruction answered. -/
theorem RegsBecome.reg_eq {val : Nibble → Byte} (h : RegsBecome i s val) (ht : exec i s = .next t) (r : Nibble) :
    t.reg r = val r := by
  obtain ⟨u, hu, hreg, -⟩ := h
  obtain rfl : u = t := Host.Outcome.next.inj (hu.symm.trans ht)
  exact hreg r

/-- The destination of a result followed by a flag, where it is not VF itself. -/
theorem RegsBecome.reg_destination {result flag : Byte}
    (h : RegsBecome i s fun r => if r = 15 then flag else if r = x then result else s.reg r) (hx : x ≠ 15)
    (ht : exec i s = .next t) : t.reg x = result := by
  rw [h.reg_eq ht, if_neg hx, if_pos rfl]

/-- `RND` (R160) draws the byte that `draws` names. -/
theorem exec_rnd (s : State) (x : Nibble) (nn : Byte) :
    exec (.rnd x nn) s = .next (s.setReg x (Config.draw8 s.draws &&& nn)).countDraw.advance := rfl

/-! ### Bytes and flags as numbers -/

theorem byte_add_eq_ofNat (a b : Byte) : a + b = BitVec.ofNat 8 ((a.toNat + b.toNat) % 256) :=
  BitVec.eq_of_toNat_eq (by simp)

theorem byte_sub_eq_ofNat (a b : Byte) : a - b = BitVec.ofNat 8 ((a.toNat + 256 - b.toNat) % 256) := by
  have hb := b.isLt
  refine BitVec.eq_of_toNat_eq ?_
  rw [BitVec.toNat_sub, BitVec.toNat_ofNat]
  omega

theorem byte_shiftRight_one_eq_ofNat (a : Byte) : a >>> 1 = BitVec.ofNat 8 (a.toNat / 2) := by
  have ha := a.isLt
  refine BitVec.eq_of_toNat_eq ?_
  rw [BitVec.toNat_ushiftRight, Nat.shiftRight_eq_div_pow, BitVec.toNat_ofNat]
  omega

theorem byte_shiftLeft_one_eq_ofNat (a : Byte) : a <<< 1 = BitVec.ofNat 8 (a.toNat * 2 % 256) := by
  refine BitVec.eq_of_toNat_eq ?_
  rw [BitVec.toNat_shiftLeft, Nat.shiftLeft_eq, BitVec.toNat_ofNat]
  omega

theorem flagByte_of_iff {p : Prop} [Decidable p] (h : f = true ↔ p) : flagByte f = if p then 1 else 0 := if_congr h rfl rfl

theorem flagByte_shiftedOutRight (a : Byte) : flagByte (shiftedOutRight a) = BitVec.ofNat 8 (a.toNat % 2) := by
  have hbit : shiftedOutRight a = true ↔ a.toNat % 2 = 1 := by
    rw [shiftedOutRight, ← BitVec.testBit_toNat, Nat.testBit_zero, decide_eq_true_eq]
  rw [flagByte_of_iff hbit]
  obtain h | h := Nat.mod_two_eq_zero_or_one a.toNat
  · rw [h]; rfl
  · rw [h]; rfl

/-- The bit a left shift drops is the one worth 128. -/
theorem shiftedOutLeft_iff (a : Byte) : shiftedOutLeft a = true ↔ 128 ≤ a.toNat := by
  have ha := a.isLt
  rw [shiftedOutLeft, ← BitVec.testBit_toNat, Nat.testBit_eq_decide_div_mod_eq, decide_eq_true_eq]
  omega

theorem flagByte_shiftRight (f : Bool) : flagByte f >>> 1 = 0 := by
  cases f with
  | false => rfl
  | true => rfl

theorem flagByte_shiftLeft (f : Bool) : flagByte f <<< 1 = if f then 2 else 0 := by
  cases f with
  | false => rfl
  | true => rfl

end

/-- Settles O28: the destination is written and `pc` advances. -/
theorem loadImmediateSetsTheRegister : Obligations.LoadImmediateSetsTheRegister :=
  ⟨decodesAs_row 8 (by decide) fun _ => rfl, fun _ _ _ => .of_setReg rfl rfl⟩

/-- Settles O29: one register written, with the sum as a number by `byte_add_eq_ofNat`. -/
theorem addImmediateAndCopy : Obligations.AddImmediateAndCopy :=
  ⟨decodesAs_row 9 (by decide) fun _ => rfl, decodesAs_row 10 (by decide) fun _ => rfl,
    fun s x _ nn => ⟨.of_setReg rfl (byte_add_eq_ofNat (s.reg x) nn), .of_setReg rfl rfl⟩⟩

/-- Settles O30: the three rows share the form result, then a flag of 0. -/
theorem bitwiseClearsTheFlag : Obligations.BitwiseClearsTheFlag :=
  ⟨decodesAs_row 11 (by decide) fun _ => rfl, decodesAs_row 12 (by decide) fun _ => rfl,
    decodesAs_row 13 (by decide) fun _ => rfl,
    fun _ _ _ => ⟨.of_resultThenFlag rfl rfl rfl, .of_resultThenFlag rfl rfl rfl, .of_resultThenFlag rfl rfl rfl⟩⟩

/-- Settles O31: the carry of the 9-bit sum is 1 exactly where the sum passes 255 (`sumCarry_iff`). -/
theorem addSetsTheCarry : Obligations.AddSetsTheCarry := by
  refine ⟨decodesAs_row 14 (by decide) fun _ => rfl, fun s x y => .of_resultThenFlag rfl ?_ ?_⟩
  · exact (sumByte_eq _ _).trans (byte_add_eq_ofNat _ _)
  · exact flagByte_of_iff (sumCarry_iff _ _)

/-- Settles O32: SUBN is SUB with minuend and subtrahend exchanged. -/
theorem subtractSetsNotBorrow : Obligations.SubtractSetsNotBorrow := by
  refine ⟨decodesAs_row 15 (by decide) fun _ => rfl, decodesAs_row 17 (by decide) fun _ => rfl, fun s x y => ⟨?_, ?_⟩⟩
  · exact .of_resultThenFlag rfl (byte_sub_eq_ofNat _ _) (flagByte_of_iff (notBorrow_iff _ _))
  · exact .of_resultThenFlag rfl (byte_sub_eq_ofNat _ _) (flagByte_of_iff (notBorrow_iff _ _))

/-- Settles O33: with `x = 15` the flag just written is shifted (`flagByte_shiftRight`, `flagByte_shiftLeft`). -/
theorem shiftsCaptureTheBitShiftedOut : Obligations.ShiftsCaptureTheBitShiftedOut := by
  refine ⟨decodesAs_row 16 (by decide) fun _ => rfl, decodesAs_row 18 (by decide) fun _ => rfl, fun s x y => ⟨?_, ?_⟩⟩
  · exact .of_flagThenShift rfl (byte_shiftRight_one_eq_ofNat _) (flagByte_shiftedOutRight _)
      fun _ => flagByte_shiftRight _
  · refine .of_flagThenShift rfl (byte_shiftLeft_one_eq_ofNat _) (flagByte_of_iff (shiftedOutLeft_iff _)) fun hx => ?_
    rw [hx, flagByte_shiftLeft]
    exact if_congr (shiftedOutLeft_iff _) rfl rfl

/-- Settles O35: the bits are those of the mask, whatever the free byte is. -/
theorem randomByteIsMasked : Obligations.RandomByteIsMasked := by
  refine ⟨decodesAs_row 22 (by decide) fun _ => rfl, fun s x nn => ⟨_, exec_rnd s x nn, fun r => ?_, fun j hj => ?_,
    fun _ => rfl, rfl⟩⟩
  · simp only [State.advance_reg, State.countDraw_reg, State.reg_setReg, eq_comm]
  · simp only [State.advance_reg, State.countDraw_reg, State.reg_setReg, if_true, BitVec.getLsbD_and, hj, Bool.and_false]

/-- Settles O34, from the rows O28 to O33 and O35: read at VF where `x = 15`, and at the destination where `y = 15`. -/
theorem flagRegisterAsOperand : Obligations.FlagRegisterAsOperand := by
  intro s x y nn
  obtain ⟨-, hldImm⟩ := loadImmediateSetsTheRegister
  obtain ⟨-, -, himmOrCopy⟩ := addImmediateAndCopy
  obtain ⟨-, -, -, hbitwise⟩ := bitwiseClearsTheFlag
  obtain ⟨-, hadd⟩ := addSetsTheCarry
  obtain ⟨-, -, hsubtract⟩ := subtractSetsNotBorrow
  obtain ⟨-, -, hshift⟩ := shiftsCaptureTheBitShiftedOut
  obtain ⟨haddImmVF, hcopyVF⟩ := himmOrCopy s 15 y nn
  obtain ⟨horVF, handVF, hxorVF⟩ := hbitwise s 15 y
  obtain ⟨hsubVF, hsubnVF⟩ := hsubtract s 15 y
  obtain ⟨hshrVF, hshlVF⟩ := hshift s 15 y
  obtain ⟨u, hu, hrndVF, -⟩ := randomByteIsMasked.2 s 15 nn
  refine ⟨(hldImm s 15 nn).completes_with (if_pos rfl),
    haddImmVF.completes_with ((if_pos rfl).trans (byte_add_eq_ofNat _ _).symm), hcopyVF.completes_with (if_pos rfl),
    ⟨u, hu, (hrndVF 15).trans (if_pos rfl)⟩,
    horVF.completes_with (if_pos rfl), handVF.completes_with (if_pos rfl), hxorVF.completes_with (if_pos rfl),
    (hadd s 15 y).completes_with (if_pos rfl), hsubVF.completes_with (if_pos rfl), hsubnVF.completes_with (if_pos rfl),
    hshrVF.completes_with rfl, hshlVF.completes_with rfl, fun hx t => ?_⟩
  obtain ⟨-, hcopy⟩ := himmOrCopy s x 15 nn
  obtain ⟨hor, hand, hxor⟩ := hbitwise s x 15
  obtain ⟨hsub, hsubn⟩ := hsubtract s x 15
  refine ⟨fun ht => (hcopy.reg_eq ht x).trans (if_pos rfl), hor.reg_destination hx, hand.reg_destination hx,
    hxor.reg_destination hx, fun ht => ?_, fun ht => ?_, fun ht => ?_⟩
  · rw [(hadd s x 15).reg_destination hx ht, byte_add_eq_ofNat]
  · rw [hsub.reg_destination hx ht, byte_sub_eq_ofNat]
  · rw [hsubn.reg_destination hx ht, byte_sub_eq_ofNat]

end Sys2Proof.Machine
end

section
/-! PROOFS. Index and memory (42_index_memory.md): the three instructions that set `I`, the two block stores, the block load. -/

namespace Sys2Proof.Machine

section
variable {s : State} {i : Instr} {bs : List Byte} {x : Nibble}

/-! ### Setting the index register (R170 to R172) -/

/-- An instruction that sets `I` and advances leaves everything else alone. -/
theorem completes_of_setIndex {a : Word} {value : Nat} (h : exec i s = .next (s.setIndex a).advance) (ha : a.toNat = value) :
    ∃ t, exec i s = .next t ∧ t.i.toNat = value ∧ s.sameMemory t ∧ t = { s with i := t.i, pc := s.pc + 2 } :=
  ⟨_, h, ha, fun _ => rfl, rfl⟩

theorem toNat_zext16 (nnn : Addr12) : (zext16 nnn).toNat = nnn.toNat :=
  BitVec.toNat_setWidth_of_le (by decide)

theorem toNat_add_setWidth_byte (a : Word) (b : Byte) : (a + b.setWidth 16).toNat = (a.toNat + b.toNat) % 65536 := by
  rw [BitVec.toNat_add, BitVec.toNat_setWidth_of_le (by decide)]

/-- The glyph address does not wrap: the font lies below 512. -/
theorem toNat_glyphAddr (c : Config) (b : Byte) :
    (glyphAddr c (b.extractLsb' 0 4)).toNat = c.fontBase.val + 5 * (b.toNat % 16) := by
  have hbase := c.fontBase.isLt
  rw [glyphAddr, BitVec.extractLsb'_toNat, Nat.shiftRight_zero, BitVec.toNat_ofNat]
  omega

/-! ### The block stores (R173, R174) -/

theorem stores_regBlock (s : State) (x : Nibble) : Stores (.ldMemVx x) s (s.regBlock x) := by
  refine ⟨s.length_regBlock x, fun r hr => ?_⟩
  have hlt : r.toNat < (s.regBlock x).length := by rw [State.length_regBlock]; omega
  rw [List.getElem?_eq_getElem hlt, State.getElem_regBlock, BitVec.ofNat_toNat, BitVec.setWidth_eq]

/-- A store that fits into memory completes, and only memory and `pc` change. -/
theorem Stores.completes (h : Stores i s bs) (hfits : s.dataAddr + bs.length ≤ memSize) :
    ∃ t, exec i s = .next t ∧ (∀ a, t.memRead a = byteAfterStore s bs a) ∧ t = { s with mem := t.mem, pc := s.pc + 2 } := by
  have ht : exec i s = .next { s with mem := Memory.writeAll s.cfg s.mem s.dataAddr bs }.advance := by
    rw [h.exec_eq, State.storeBlock_eq, if_pos (.inr hfits), orRaise_some]
  exact ⟨_, ht, (h.next hfits ht).2, rfl⟩

theorem byteAfterStore_inside {k : Nat} {b : Byte} (h : bs[k]? = some b) :
    byteAfterStore s bs (s.dataAddr + k) = some b := by
  obtain ⟨hk, -⟩ := List.getElem?_eq_some_iff.1 h
  rw [byteAfterStore, if_pos ⟨Nat.le_add_right _ _, Nat.add_lt_add_left hk _⟩, Nat.add_sub_cancel_left, h]

theorem byteAfterStore_outside {a : Nat} (h : a < s.dataAddr ∨ s.dataAddr + bs.length ≤ a) :
    byteAfterStore s bs a = s.memRead a := if_neg (by omega)

/-- FX33 with an address above 4095 takes the fault (R173, D17). -/
theorem exec_ldB_of_beyond (h : memSize ≤ s.dataAddr + 2) :
    exec (.ldB x) s = .next (s.latch .addressOutOfRange) := by
  have hbeyond : ¬((bcdDigits (s.reg x)).length = 0 ∨ s.dataAddr + (bcdDigits (s.reg x)).length ≤ memSize) := by
    simp only [bcdDigits, List.length_cons, List.length_nil]; omega
  rw [exec, execLdB, State.storeBlock_eq, if_neg hbeyond, orRaise_none]

/-! ### The block load (R175) -/

theorem exec_ldVxMem_of_lt (h : s.dataAddr + x.toNat < memSize) : exec (.ldVxMem x) s =
    .next (s.setRegBlock (Memory.readAll s.cfg s.mem s.dataAddr (x.toNat + 1))).advance := by
  rw [exec, execLdVxMem, State.loadBlock_eq, if_pos (.inr h), orRaise_some]

end

/-- Settles O36: each of the three is one `completes_of_setIndex`, with its new `I` read as a number. -/
theorem indexRegisterIsSet : Obligations.IndexRegisterIsSet := by
  refine ⟨decodesAs_row 20 (by decide) fun _ => rfl, decodesAs_row 30 (by decide) fun _ => rfl,
    decodesAs_row 31 (by decide) fun _ => rfl, fun s nnn x i value h => ?_⟩
  obtain ⟨rfl, rfl⟩ | ⟨rfl, rfl⟩ | ⟨rfl, rfl⟩ := h
  · exact completes_of_setIndex rfl (toNat_zext16 nnn)
  · exact completes_of_setIndex rfl (toNat_add_setWidth_byte s.i (s.reg x))
  · exact completes_of_setIndex rfl (toNat_glyphAddr s.cfg (s.reg x))

/-- Settles O37: the digits given are what the instruction `Stores`, and `byteAfterStore` is read at and around them. -/
theorem decimalDigitsAreStored : Obligations.DecimalDigitsAreStored := by
  refine ⟨decodesAs_row 32 (by decide) fun _ => rfl, fun s x => ⟨fun hin h d u hd hu hvalue => ?_, exec_ldB_of_beyond⟩⟩
  have hstores : Stores (.ldB x) s [BitVec.ofNat 8 h, BitVec.ofNat 8 d, BitVec.ofNat 8 u] := ⟨h, d, u, hd, hu, hvalue, rfl⟩
  obtain ⟨t, ht, hmem, hframe⟩ := hstores.completes (Nat.succ_le_succ hin)
  refine ⟨t, ht, ?_, ?_, ?_, fun a ha => ?_, hframe⟩
  · exact (hmem _).trans (byteAfterStore_inside (k := 0) rfl)
  · exact (hmem _).trans (byteAfterStore_inside rfl)
  · exact (hmem _).trans (byteAfterStore_inside rfl)
  · exact (hmem a).trans (byteAfterStore_outside ha)

/-- Settles O38: the instruction `Stores` the registers `V0..Vx`, and `byteAfterStore` is read at and around them. -/
theorem registerBlockIsStored : Obligations.RegisterBlockIsStored := by
  refine ⟨decodesAs_row 33 (by decide) fun _ => rfl, fun s x => ⟨fun hin => ?_, exec_ldMemVx_of_beyond⟩⟩
  have hstores := stores_regBlock s x
  have ⟨hlength, hbytes⟩ := hstores
  obtain ⟨t, ht, hmem, hframe⟩ := hstores.completes (hlength ▸ Nat.succ_le_succ hin)
  refine ⟨t, ht, fun r hr => ?_, fun a ha => ?_, hframe⟩
  · exact (hmem _).trans (byteAfterStore_inside (hbytes r hr))
  · exact (hmem a).trans (byteAfterStore_outside (hlength ▸ ha))

/-- Settles O39: register `r` of the block is the byte read at `I + r`, and `setRegBlock` leaves the registers above alone. -/
theorem registerBlockIsLoaded : Obligations.RegisterBlockIsLoaded := by
  refine ⟨decodesAs_row 34 (by decide) fun _ => rfl, fun s x => ⟨fun hin => ?_, exec_ldVxMem_of_beyond⟩⟩
  have hlt : s.dataAddr + x.toNat < memSize := Nat.lt_succ_of_le hin
  refine ⟨_, exec_ldVxMem_of_lt hlt, fun r => ?_, fun _ => rfl, rfl⟩
  simp only [State.advance_reg, State.setRegBlock_reg, Memory.length_readAll, Nat.lt_succ_iff]
  split
  · next hr =>
    rw [Memory.getElem_readAll]
    exact if_pos (Nat.lt_of_le_of_lt (Nat.add_le_add_left hr _) hlt)
  · rfl

/-- Settles O40, from O38 and O39: the byte at `I + r` is the register stored there and the register loaded from there. -/
theorem storedBlockLoadsBack : Obligations.StoredBlockLoadsBack := by
  intro s t u x hin ht hsame hindex
  obtain ⟨t', ht', hstored, -⟩ := (registerBlockIsStored.2 s x).1 hin
  obtain rfl : t' = t := Host.Outcome.next.inj (ht'.symm.trans ht)
  obtain ⟨w, hw, hloaded, -⟩ := (registerBlockIsLoaded.2 u x).1 (hindex ▸ hin)
  refine ⟨w, hw, fun r hr => Option.some.inj ?_⟩
  have haddr : u.dataAddr = s.dataAddr := congrArg BitVec.toNat hindex
  calc some (w.reg r) = u.memRead (u.dataAddr + r.toNat) := ((if_pos hr).mp (hloaded r)).symm
    _ = t'.memRead (s.dataAddr + r.toNat) := by rw [haddr, hsame]
    _ = some (s.reg r) := hstored r hr

end Sys2Proof.Machine
end

section
/-! PROOFS. The display (44_display.md): a draw as a list of grid points, no two of them the same, each toggled once (R196);
the rows R190 to R199 and `Present`. -/

namespace Sys2Proof.Machine

/-- A pixel of the grid, its column and its row (R193). -/
abbrev GridPoint := Fin 64 × Fin 32

/-- The pixel at a grid point. -/
def Framebuffer.pixelAt (fb : Framebuffer) (p : GridPoint) : Bool := fb.pixel p.1 p.2

/-- One set sprite bit after another lands on the grid points of a list. -/
def Drawing.hits (d : Drawing) (ps : List GridPoint) : Drawing := ps.foldl (fun d p => d.hit p.1 p.2) d

/-- Where the set bits of one sprite row land, drawn at column `x0`, row `y` (R191, R193). -/
def rowPoints (x0 y : Nat) (row : Byte) : List GridPoint :=
  ((List.range 8).filter (spriteBit row)).map fun c => (Fin.ofNat 64 (x0 + c), Fin.ofNat 32 y)

/-- Where the set bits of a sprite land, drawn downwards from row `y` (R191). -/
def spritePoints (x0 : Nat) : Nat → List Byte → List GridPoint
  | _, [] => []
  | y, row :: rest => rowPoints x0 y row ++ spritePoints x0 (y + 1) rest

/-- Where the set bits of the sprite of `DRW Vx, Vy, n` land. -/
def State.drawnPoints (s : State) (x y n : Nibble) : List GridPoint :=
  spritePoints (s.reg x).toNat (s.reg y).toNat (Memory.readAll s.cfg s.mem s.dataAddr n.toNat)

/-! ### A draw is a list of hits -/

theorem Framebuffer.pixelAt_eq (fb : Framebuffer) (y : Fin 32) (x : Fin 64) : fb.pixelAt (x, y) = fb[y][x] :=
  fb.pixel_eq x y x.isLt y.isLt

theorem exists_gridPoint {P : GridPoint → Prop} : (∃ p, P p) ↔ ∃ (py : Fin 32) (px : Fin 64), P (px, py) :=
  Prod.exists.trans exists_comm

theorem Framebuffer.ext_pixelAt {a b : Framebuffer} (h : ∀ p, a.pixelAt p = b.pixelAt p) : a = b :=
  Framebuffer.ext_pixel fun x y hx hy => h (⟨x, hx⟩, ⟨y, hy⟩)

@[simp] theorem Drawing.hits_nil (d : Drawing) : d.hits [] = d := rfl

@[simp] theorem Drawing.hits_cons (d : Drawing) (p : GridPoint) (ps : List GridPoint) :
    d.hits (p :: ps) = (d.hit p.1 p.2).hits ps := rfl

theorem Drawing.hits_append (d : Drawing) (ps qs : List GridPoint) : d.hits (ps ++ qs) = (d.hits ps).hits qs :=
  List.foldl_append

/-- Coordinates count modulo the grid's sides (R193). -/
theorem Drawing.hit_mod (d : Drawing) (x y : Nat) : d.hit (x % 64) (y % 32) = d.hit x y := by
  simp only [Drawing.hit, Framebuffer.toggle, Framebuffer.pixel_mod, Nat.mod_mod]

theorem Drawing.row_eq_hits (d : Drawing) (x0 y : Nat) (row : Byte) : d.row x0 y row = d.hits (rowPoints x0 y row) := by
  simp only [Drawing.row, Drawing.hits, rowPoints, List.foldl_map, List.foldl_filter, Fin.val_ofNat, Drawing.hit_mod]

theorem Drawing.rows_eq_hits (d : Drawing) (x0 y : Nat) (sprite : List Byte) :
    d.rows x0 y sprite = d.hits (spritePoints x0 y sprite) := by
  induction sprite generalizing d y with
  | nil => rfl
  | cons row rest ih => rw [Drawing.rows, ih, Drawing.row_eq_hits, spritePoints, Drawing.hits_append]

/-! ### Which grid points -/

theorem mem_rowPoints {x0 y : Nat} {row : Byte} {p : GridPoint} :
    p ∈ rowPoints x0 y row ↔ ∃ c < 8, spriteBit row c = true ∧ (x0 + c) % 64 = p.1 ∧ y % 32 = p.2 := by
  simp only [rowPoints, List.mem_map, List.mem_filter, List.mem_range, Prod.ext_iff, Fin.ext_iff, Fin.val_ofNat, and_assoc]

theorem mem_spritePoints {x0 y : Nat} {sprite : List Byte} {p : GridPoint} : p ∈ spritePoints x0 y sprite ↔
    ∃ r b, sprite[r]? = some b ∧ ∃ c < 8, spriteBit b c = true ∧ (x0 + c) % 64 = p.1 ∧ (y + r) % 32 = p.2 := by
  induction sprite generalizing y with
  | nil => simp [spritePoints]
  | cons row rest ih =>
    rw [spritePoints, List.mem_append, mem_rowPoints, ih]
    constructor
    · rintro (hrow | ⟨r, b, hb, hland⟩)
      · exact ⟨0, row, rfl, hrow⟩
      · exact ⟨r + 1, b, hb, by rwa [Nat.add_comm r 1, ← Nat.add_assoc]⟩
    · rintro ⟨_ | r, b, hb, hland⟩
      · obtain rfl : row = b := Option.some.inj hb
        exact .inl hland
      · exact .inr ⟨r, b, hb, by rwa [Nat.add_assoc, Nat.add_comm 1 r]⟩

/-- Eight columns fit beside each other on the grid. -/
theorem nodup_rowPoints (x0 y : Nat) (row : Byte) : (rowPoints x0 y row).Nodup := by
  refine (List.nodup_range.filter _).map_on fun a ha b hb hab => ?_
  have ha8 : a < 8 := List.mem_range.1 (List.mem_filter.1 ha).1
  have hb8 : b < 8 := List.mem_range.1 (List.mem_filter.1 hb).1
  have hcol : (x0 + a) % 64 = (x0 + b) % 64 := congrArg (fun p : GridPoint => p.1.val) hab
  omega

/-- No two bits of a sprite of at most 32 rows reach the same pixel (R196). -/
theorem nodup_spritePoints (x0 y : Nat) {sprite : List Byte} (h : sprite.length ≤ 32) :
    (spritePoints x0 y sprite).Nodup := by
  induction sprite generalizing y with
  | nil => exact List.nodup_nil
  | cons row rest ih =>
    rw [List.length_cons] at h
    refine List.Nodup.append (nodup_rowPoints x0 y row) (ih (y + 1) (by omega)) fun p hrow hrest => ?_
    obtain ⟨-, -, -, -, hy⟩ := mem_rowPoints.1 hrow
    obtain ⟨r, b, hb, -, -, -, -, hr⟩ := mem_spritePoints.1 hrest
    obtain ⟨hlt, -⟩ := List.getElem?_eq_some_iff.1 hb
    omega

/-! ### What hits on different points do -/

theorem Drawing.pixelAt_hit (d : Drawing) (p q : GridPoint) :
    (d.hit p.1 p.2).fb.pixelAt q = if q = p then !d.fb.pixelAt q else d.fb.pixelAt q := by
  simp only [Drawing.hit, Framebuffer.pixelAt, Framebuffer.pixel_toggle, Nat.mod_eq_of_lt, Fin.is_lt, Prod.ext_iff, Fin.ext_iff]

/-- Each point of the list is toggled, and no other (R192). -/
theorem Drawing.pixelAt_hits_ne {d : Drawing} {ps : List GridPoint} (hps : ps.Nodup) (q : GridPoint) :
    (d.hits ps).fb.pixelAt q ≠ d.fb.pixelAt q ↔ q ∈ ps := by
  induction ps generalizing d with
  | nil => simp
  | cons p ps ih =>
    obtain ⟨hp, hps⟩ := List.nodup_cons.1 hps
    rw [Drawing.hits_cons, List.mem_cons]
    have hrest := ih (d := d.hit p.1 p.2) hps
    rw [Drawing.pixelAt_hit] at hrest
    by_cases hq : q = p
    · subst hq
      simpa [hp] using hrest
    · simpa [hq] using hrest

/-- A collision is a hit on a pixel that was on (R196). -/
theorem Drawing.coll_hits {d : Drawing} {ps : List GridPoint} (hps : ps.Nodup) :
    (d.hits ps).coll = true ↔ d.coll = true ∨ ∃ p ∈ ps, d.fb.pixelAt p = true := by
  induction ps generalizing d with
  | nil => simp
  | cons p ps ih =>
    obtain ⟨hp, hps⟩ := List.nodup_cons.1 hps
    have hkeep : ∀ q ∈ ps, (d.hit p.1 p.2).fb.pixelAt q = d.fb.pixelAt q := fun q hq =>
      (d.pixelAt_hit p q).trans (if_neg (ne_of_mem_of_not_mem hq hp))
    have hrest : (∃ q ∈ ps, (d.hit p.1 p.2).fb.pixelAt q = true) ↔ ∃ q ∈ ps, d.fb.pixelAt q = true :=
      exists_congr fun q => and_congr_right fun hq => by rw [hkeep q hq]
    have hfirst : (d.hit p.1 p.2).coll = true ↔ d.coll = true ∨ d.fb.pixelAt p = true := Bool.or_eq_true_iff
    rw [Drawing.hits_cons, ih hps, hrest, hfirst, or_assoc]
    simp only [List.mem_cons, exists_eq_or_imp]

/-- A pixel changes where there is a hit (R197). -/
theorem Drawing.changed_hits (d : Drawing) (ps : List GridPoint) :
    (d.hits ps).changed = true ↔ d.changed = true ∨ ∃ p, p ∈ ps := by
  induction ps generalizing d with
  | nil => simp
  | cons p ps ih =>
    rw [Drawing.hits_cons, ih]
    exact iff_of_true (.inl rfl) (.inr ⟨p, List.mem_cons_self⟩)

/-! ### The instruction -/

section
variable {s : State} {x y n : Nibble}

/-- The sprite lies inside memory, or has no rows (R194, R198). -/
theorem spriteFits_of_le (h : n = 0 ∨ s.i.toNat + n.toNat - 1 ≤ 4095) : n.toNat = 0 ∨ s.dataAddr + n.toNat ≤ memSize := by
  obtain rfl | hle := h
  · exact .inl rfl
  · exact .inr (show s.i.toNat + n.toNat ≤ 4096 by omega)

theorem nodup_drawnPoints (s : State) (x y n : Nibble) : (s.drawnPoints x y n).Nodup := by
  refine nodup_spritePoints _ _ ?_
  have hn := n.isLt
  rw [Memory.length_readAll]
  omega

theorem getElem?_readAll_eq_some (h : n.toNat = 0 ∨ s.dataAddr + n.toNat ≤ memSize) {r : Nat} {b : Byte} :
    (Memory.readAll s.cfg s.mem s.dataAddr n.toNat)[r]? = some b ↔ r < n.toNat ∧ s.memRead (s.dataAddr + r) = some b := by
  have hload : s.loadBlock s.dataAddr n.toNat = some (Memory.readAll s.cfg s.mem s.dataAddr n.toNat) := by
    rw [State.loadBlock_eq, if_pos h]
  obtain ⟨hlen, hbytes⟩ := State.loadBlock_bytes hload
  rw [List.getElem?_eq_some_iff]
  constructor
  · rintro ⟨hr, rfl⟩
    exact ⟨hlen ▸ hr, hbytes r hr⟩
  · rintro ⟨hr, hb⟩
    exact ⟨hlen.symm ▸ hr, Option.some.inj ((hbytes r (hlen.symm ▸ hr)).symm.trans hb)⟩

/-- The points drawn are those the statements call covered. -/
theorem mem_drawnPoints (h : n.toNat = 0 ∨ s.dataAddr + n.toNat ≤ memSize) {px : Fin 64} {py : Fin 32} :
    (px, py) ∈ s.drawnPoints x y n ↔ SpriteCovers s x y n px.val py.val := by
  rw [State.drawnPoints, mem_spritePoints]
  constructor
  · rintro ⟨r, b, hb, c, hc, hbit, hx, hy⟩
    obtain ⟨hr, hread⟩ := (getElem?_readAll_eq_some h).1 hb
    exact ⟨r, c, b, hr, hc, hread, hbit, hx, hy⟩
  · rintro ⟨r, c, b, hr, hc, hread, hbit, hx, hy⟩
    exact ⟨r, b, (getElem?_readAll_eq_some h).2 ⟨hr, hread⟩, c, hc, hbit, hx, hy⟩

/-- `DRW` with its sprite inside memory hits the points drawn, from the framebuffer as it was. -/
theorem exec_drw_of_fits (h : n.toNat = 0 ∨ s.dataAddr + n.toNat ≤ memSize) : exec (.drw x y n) s =
    .next (s.commitDrawing (Drawing.hits ⟨s.fb, false, false⟩ (s.drawnPoints x y n))).advance := by
  rw [exec, execDrw, State.loadBlock_eq, if_pos h, orRaise_some, drawSprite, Drawing.rows_eq_hits, State.drawnPoints]

/-- `DRW` with a sprite byte beyond memory (R198). -/
theorem exec_drw_of_beyond (hn : n.toNat ≠ 0) (h : memSize < s.dataAddr + n.toNat) :
    exec (.drw x y n) s = .next (s.latch .addressOutOfRange) := by
  rw [exec, execDrw, State.loadBlock_eq, if_neg (by omega), orRaise_none]

/-- `DRW` of no rows only clears VF (R194). -/
theorem exec_drw_zero (s : State) (x y : Nibble) : exec (.drw x y 0) s = .next (s.setFlag false).advance := by
  rw [exec_drw_of_fits (.inl rfl), State.commitDrawing_eq]
  exact congrArg (fun dirty => Host.Outcome.next ({ s with dirty := dirty }.setFlag false).advance) (Bool.or_false s.dirty)

end

theorem flagByte_eq_one {f : Bool} : flagByte f = 1 ↔ f = true := by
  cases f with
  | false => decide
  | true => decide

/-- A pixel changed twice is as it was. -/
theorem eq_of_changed_iff_changed {before between after : Bool} (h : after ≠ between ↔ between ≠ before) :
    after = before := by
  revert before between after
  decide

/-! ### Presentation -/

theorem present_dirty {s : State} (hrun : s.halted = false) (hdirty : s.dirty = true) :
    presentedFrame s = some s.fb ∧ present s = { s with dirty := false } := by
  simp [presentedFrame, present, hrun, hdirty]

theorem present_nothing {s : State} (h : s.halted = true ∨ s.dirty = false) :
    presentedFrame s = none ∧ present s = s := by
  by_cases hhalt : s.halted = true
  · exact ⟨if_pos hhalt, present_halted hhalt⟩
  · have hclean : s.dirty = false := h.resolve_left hhalt
    have hsame : { s with dirty := false } = s := by rw [← hclean]
    exact ⟨by rw [presentedFrame, if_neg hhalt, hclean, if_neg Bool.false_ne_true], (if_neg hhalt).trans hsame⟩

/-- Settles O48, by `present_dirty` and `present_nothing`. -/
theorem presentHandsOutADirtyFrame : Obligations.PresentHandsOutADirtyFrame := by
  refine fun s => ⟨fun hrun hdirty => ?_, fun hnothing => ?_⟩
  · obtain ⟨hframe, hpresent⟩ := present_dirty hrun hdirty
    exact ⟨hframe, congrArg Host.Outcome.next hpresent⟩
  · obtain ⟨hframe, hpresent⟩ := present_nothing hnothing
    exact ⟨hframe, congrArg Host.Outcome.next hpresent⟩

/-- Settles O43: the framebuffer of CLS is the blank one. -/
theorem clearTurnsEveryPixelOff : Obligations.ClearTurnsEveryPixelOff := by
  refine ⟨decodesAs_row 0 (by decide) fun _ => rfl, fun s => ⟨_, rfl, fun y x => ?_, fun _ => rfl, rfl⟩⟩
  exact (Framebuffer.pixelAt_eq _ y x).symm.trans (Framebuffer.pixel_blank _ _)

/-- Settles O47: the two cases are `exec_drw_of_beyond` and `exec_drw_zero`. -/
theorem spriteReadIsChecked : Obligations.SpriteReadIsChecked := by
  refine fun s x y n => ⟨fun hrows hbeyond => ?_, ?_⟩
  · exact exec_drw_of_beyond (by omega) (show 4096 < s.i.toNat + n.toNat by omega)
  · rintro rfl
    exact .of_setReg (exec_drw_zero s x y) rfl

/-- Settles O44: the draw is a list of hits on the covered points, each toggled once (`Drawing.pixelAt_hits_ne`). -/
theorem drawTogglesTheCoveredPixels : Obligations.DrawTogglesTheCoveredPixels := by
  refine ⟨decodesAs_row 23 (by decide) fun _ => rfl, fun s x y n hin => ?_⟩
  have hfits := spriteFits_of_le hin
  refine ⟨_, exec_drw_of_fits hfits, fun py px => ?_, fun r hr => ?_, fun _ => rfl, rfl⟩
  · rw [← mem_drawnPoints hfits, ← Framebuffer.pixelAt_eq, ← Framebuffer.pixelAt_eq]
    exact Drawing.pixelAt_hits_ne (nodup_drawnPoints s x y n) (px, py)
  · exact (State.reg_setFlag _ r _).trans (if_neg (Ne.symm hr))

/-- Settles O45: VF and `dirty` are the collision and the change of the hits (`Drawing.coll_hits`, `Drawing.changed_hits`). -/
theorem drawReportsCollisionAndDirty : Obligations.DrawReportsCollisionAndDirty := by
  intro s t x y n hin ht
  have hfits := spriteFits_of_le hin
  obtain rfl := Host.Outcome.next.inj ((exec_drw_of_fits hfits).symm.trans ht)
  have hnodup := nodup_drawnPoints s x y n
  rw [State.advance_reg, State.commitDrawing_eq, State.flag_setFlag]
  refine ⟨flagByte_cases _, ?_, ?_⟩
  · rw [flagByte_eq_one, Drawing.coll_hits hnodup, or_iff_right Bool.false_ne_true, exists_gridPoint]
    simp only [mem_drawnPoints hfits, Framebuffer.pixelAt_eq]
  · rw [State.advance_dirty, State.setFlag_dirty, Bool.or_eq_true_iff, Drawing.changed_hits,
      or_iff_right Bool.false_ne_true, exists_gridPoint]
    simp only [mem_drawnPoints hfits]

/-- Settles O46, from O44 and O45: both draws cover the same points, so the second toggles back what the first toggled; on a
blank field the pixels that are on after the first draw are the covered ones. -/
theorem drawingTwiceRestores : Obligations.DrawingTwiceRestores := by
  intro s t u x y x' y' n hin ht hfb hmem hindex hx hy
  have hcovers (px py : Nat) : SpriteCovers u x' y' n px py ↔ SpriteCovers s x y n px py := by
    simp only [SpriteCovers, ← hmem _, hindex, hx, hy]
  obtain ⟨t', ht', htoggled, -⟩ := drawTogglesTheCoveredPixels.2 s x y n hin
  obtain rfl : t' = t := Host.Outcome.next.inj (ht'.symm.trans ht)
  have hin' : n = 0 ∨ u.i.toNat + n.toNat - 1 ≤ 4095 := hindex ▸ hin
  obtain ⟨w, hw, htoggledBack, -⟩ := drawTogglesTheCoveredPixels.2 u x' y' n hin'
  refine ⟨w, hw, Framebuffer.ext_pixelAt fun (px, py) => ?_, fun hblank => ?_⟩
  · have hsecond := htoggledBack py px
    rw [hcovers, ← htoggled, hfb] at hsecond
    rw [Framebuffer.pixelAt_eq, Framebuffer.pixelAt_eq]
    exact eq_of_changed_iff_changed hsecond
  · obtain ⟨hflag, hhit, -⟩ := drawReportsCollisionAndDirty s t' x y n hin ht
    obtain ⟨hflag', hhit', -⟩ := drawReportsCollisionAndDirty u w x' y' n hin' hw
    have hlit (py : Fin 32) (px : Fin 64) :
        SpriteCovers u x' y' n px py ∧ u.fb[py][px] = true ↔ t'.fb[py][px] = true := by
      rw [hcovers, ← htoggled, hblank, hfb, Bool.ne_false_iff, and_self_iff]
    simp only [hlit] at hhit'
    refine ⟨hflag.resolve_right fun hone => ?_, ?_⟩
    · obtain ⟨py, px, -, hon⟩ := hhit.1 hone
      exact Bool.false_ne_true ((hblank py px).symm.trans hon)
    · split
      · next hon => exact hhit'.2 hon
      · next hoff => exact hflag'.resolve_right (mt hhit'.1 hoff)

end Sys2Proof.Machine
end

section
/-! PROOFS. The keypad and the timers (45_keypad_timers.md): the skips on a key, the wait for a key, the key event, the timer
instructions, `Tick`. -/

namespace Sys2Proof.Machine

section
variable {s t : State} {x : Nibble} {b : Byte}

/-! ### The skips on a key (R210, R211) -/

theorem State.keyLevel_of_key {n : Fin 16} (h : b.toNat = n.val) : s.keyLevel b = some s.keys[n] := by
  have hnumber : (b.setWidth 4).toNat = n.val := by
    rw [BitVec.toNat_setWidth, h]
    exact Nat.mod_eq_of_lt n.isLt
  rw [State.keyLevel_eq, if_pos (h ▸ n.isLt), State.keyDown]
  simp only [hnumber, Fin.getElem_fin]

theorem State.keyLevel_of_le (h : 16 ≤ b.toNat) : s.keyLevel b = none := if_neg (not_lt.2 h)

theorem exec_skp_of_key {n : Fin 16} (h : (s.reg x).toNat = n.val) :
    exec (.skp x) s = .next (s.skipIf s.keys[n]) := by
  rw [exec, execSkp, State.keyLevel_of_key h, orRaise_some]

theorem exec_sknp_of_key {n : Fin 16} (h : (s.reg x).toNat = n.val) :
    exec (.sknp x) s = .next (s.skipIf !s.keys[n]) := by
  rw [exec, execSknp, State.keyLevel_of_key h, orRaise_some]

theorem exec_skp_of_le (h : 16 ≤ (s.reg x).toNat) : exec (.skp x) s = .next (s.latch .badArgument) := by
  rw [exec, execSkp, State.keyLevel_of_le h, orRaise_none]

theorem exec_sknp_of_le (h : 16 ≤ (s.reg x).toNat) : exec (.sknp x) s = .next (s.latch .badArgument) := by
  rw [exec, execSknp, State.keyLevel_of_le h, orRaise_none]

/-! ### The key event (R213, R215) -/

theorem State.reg_completeWait (s : State) (x k r : Nibble) :
    (s.completeWait x k).reg r = if r = x then k.setWidth 8 else s.reg r := by
  simp only [State.completeWait, State.setWait_reg, State.advance_reg, State.reg_setReg, eq_comm]

@[simp] theorem State.keyDown_completeWait (s : State) (x k j : Nibble) :
    (s.completeWait x k).keyDown j = s.keyDown j := rfl

/-- All a `KeyEvent` can do while the block is not halted: complete a wait by a true transition to down, or set the level
and nothing else. -/
theorem keyEvent_cases (hrun : s.halted = false) (k : Nibble) (down : Bool) :
    (∃ x, s.wait = .key x ∧ down = true ∧ s.keyDown k = false ∧
      keyEvent k down s = (s.completeWait x k).setKey k down) ∨
    ((s.wait = .idle ∨ down = false ∨ s.keyDown k = true) ∧ keyEvent k down s = s.setKey k down) := by
  cases hwait : s.wait with
  | idle => exact .inr ⟨.inl rfl, keyEvent_running ⟨hrun, hwait⟩ k down⟩
  | key x =>
    simp only [keyEvent, hrun, hwait, Bool.false_eq_true, if_false]
    split
    · next hpress =>
      simp only [Bool.and_eq_true, Bool.not_eq_true'] at hpress
      obtain ⟨hdown, hup⟩ := hpress
      exact .inl ⟨x, rfl, hdown, hup, rfl⟩
    · next hno =>
      simp only [Bool.and_eq_true, Bool.not_eq_true', not_and_or, Bool.not_eq_true, Bool.not_eq_false] at hno
      exact .inr ⟨.inr hno, rfl⟩

/-- In both cases the level of the key is set, and no other. -/
theorem keyDown_keyEvent (hrun : s.halted = false) (k : Nibble) (down : Bool) (j : Nibble) :
    (keyEvent k down s).keyDown j = if j = k then down else s.keyDown j := by
  obtain ⟨x, -, -, -, heq⟩ | ⟨-, heq⟩ := keyEvent_cases hrun k down <;>
    simp only [heq, State.keyDown_setKey, State.keyDown_completeWait, eq_comm]

/-- Only a true transition to down while the block is not halted ends a wait. -/
theorem keyEvent_ends_wait {k : Nibble} {down : Bool} (h : (keyEvent k down s).wait ≠ s.wait) :
    down = true ∧ s.keyDown k = false ∧ s.halted = false := by
  cases hrun : s.halted with
  | true => exact absurd (by rw [keyEvent_halted hrun]) h
  | false =>
    obtain ⟨x, -, hdown, hup, -⟩ | ⟨-, heq⟩ := keyEvent_cases hrun k down
    · exact ⟨hdown, hup, rfl⟩
    · exact absurd (by rw [heq, State.setKey_wait]) h

/-! ### The wait and the other transactions (R216, R221) -/

theorem wait_tick (s : State) : (tick s).wait = s.wait := by
  unfold tick
  split <;> rfl

theorem wait_present (s : State) : (present s).wait = s.wait := by
  unfold present
  split <;> rfl

theorem wait_loadProgram {bytes : List Byte} (h : loadProgram bytes s = .next t) : t.wait = s.wait := by
  unfold loadProgram at h
  split at h
  · cases h; rfl
  · split at h
    · cases h
    · split at h <;> cases h <;> rfl

/-! ### The timers (R220) -/

theorem toNat_countDown (b : Byte) : (countDown b).toNat = b.toNat - 1 := by
  unfold countDown
  split
  · next hzero => rw [hzero]; rfl
  · next hpos => bv_omega

theorem tick_unhalted (h : s.halted = false) : tick s = { s with dt := countDown s.dt, st := countDown s.st } := by
  simp [tick, h]

theorem tone_iff (s : State) : tone s = true ↔ s.st ≠ 0 ∧ s.halted = false := by
  simp [tone]

end

/-- Settles O49: a register below 16 numbers a key (`State.keyLevel_of_key`), and SKNP skips on its negated level. -/
theorem skipsTestTheKey : Obligations.SkipsTestTheKey := by
  refine ⟨decodesAs_row 24 (by decide) fun _ => rfl, decodesAs_row 25 (by decide) fun _ => rfl,
    fun s x => ⟨fun n hn => ⟨.of_skipIf (exec_skp_of_key hn), ?_⟩, fun hbad => ⟨exec_skp_of_le hbad, exec_sknp_of_le hbad⟩⟩⟩
  simpa only [Bool.not_eq_true', ← Bool.not_eq_true, ite_not] using GoesTo.of_skipIf (exec_sknp_of_key hn)

/-- Settles O51, by the two cases of `keyEvent_cases`; the guards of the two clauses exclude each other. -/
theorem keyEventSetsTheLevel : Obligations.KeyEventSetsTheLevel := by
  intro s k d
  refine ⟨fun hhalt => congrArg Host.Outcome.next (keyEvent_halted hhalt k d),
    fun hrun => ⟨keyEvent k d s, rfl, keyDown_keyEvent hrun k d, ?_⟩⟩
  obtain ⟨x, hwait, rfl, hup, heq⟩ | ⟨hkeep, heq⟩ := keyEvent_cases hrun k d
  · rw [heq]
    refine ⟨fun x' hwait' _ _ => ?_, fun hkeep => ?_⟩
    · obtain rfl : x = x' := Wait.key.inj (hwait.symm.trans hwait')
      exact ⟨s.reg_completeWait x k, rfl⟩
    · simp [hwait, hup] at hkeep
  · rw [heq]
    refine ⟨fun x hwait hdown hup => ?_, fun _ => rfl⟩
    simp [hwait, hdown, hup] at hkeep

/-- Settles O50: the key event that completes the wait is O51's, at the state the instruction leaves. -/
theorem waitForKeySuspendsUntilAKey : Obligations.WaitForKeySuspendsUntilAKey := by
  refine ⟨decodesAs_row 27 (by decide) fun _ => rfl,
    fun s x k => ⟨s.setWait (.key x), rfl, fun _ => rfl, rfl, fun hrun hup => ?_⟩⟩
  obtain ⟨u, hu, hlevel, hpress, -⟩ := (keyEventSetsTheLevel (s.setWait (.key x)) k true).2 hrun
  obtain ⟨hreg, hrest⟩ := hpress x rfl rfl hup
  exact ⟨u, hu, hreg, congrArg State.pc hrest, congrArg State.wait hrest, (hlevel k).trans (if_pos rfl)⟩

/-- Settles O11: a `Step` holds by `cycle_waiting`, and of the other transactions only `Reset` and a key event can touch the
wait (`keyEvent_ends_wait`). -/
theorem waitEndsOnlyByKeyDownOrReset : Obligations.WaitEndsOnlyByKeyDownOrReset := by
  refine fun s x hwait => ⟨cycle_waiting hwait, fun tr t ht hends => ?_⟩
  rw [← hwait] at hends
  cases tr with
  | reset => exact .inl rfl
  | load bytes => exact absurd (wait_loadProgram ht) hends
  | step =>
    obtain rfl := Host.Outcome.next.inj ((cycle_waiting hwait).symm.trans ht)
    exact absurd rfl hends
  | tick =>
    obtain rfl := Host.Outcome.next.inj ht
    exact absurd (wait_tick s) hends
  | keyEvent k down =>
    obtain rfl := Host.Outcome.next.inj ht
    obtain ⟨rfl, hup, hrun⟩ := keyEvent_ends_wait hends
    exact .inr ⟨k, rfl, hup, hrun⟩
  | present =>
    obtain rfl := Host.Outcome.next.inj ht
    exact absurd (wait_present s) hends

/-- Settles O52: each of the three copies one byte, and `tone_iff` reads the tone off the new `ST`. -/
theorem timersAreReadAndWritten : Obligations.TimersAreReadAndWritten := by
  refine ⟨decodesAs_row 26 (by decide) fun _ => rfl, decodesAs_row 28 (by decide) fun _ => rfl,
    decodesAs_row 29 (by decide) fun _ => rfl, fun s x => ⟨.of_setReg rfl rfl, ?_, ?_⟩⟩
  · exact ⟨(s.setDt (s.reg x)).advance, rfl, fun _ => rfl, rfl⟩
  · exact ⟨(s.setSt (s.reg x)).advance, rfl, fun _ => rfl, rfl, fun hrun => (tone_iff _).trans (and_iff_left hrun)⟩

/-- Settles O53: `tick_unhalted`, each timer read by `toNat_countDown`. -/
theorem tickCountsBothTimersDown : Obligations.TickCountsBothTimersDown := by
  refine fun s => ⟨fun hhalt => congrArg Host.Outcome.next (tick_halted hhalt), fun hrun => ?_⟩
  exact ⟨_, congrArg Host.Outcome.next (tick_unhalted hrun), toNat_countDown s.dt, toNat_countDown s.st, rfl⟩

end Sys2Proof.Machine
end

section
/-! PROOFS. The outputs (70_reset_and_hazards.md R283): `fb_out` bit by bit (44_display.md R201), and the others. -/

namespace Sys2Proof.Machine

theorem fbBits_lt (s : State) (n : Nat) : fbBits s n < 2 ^ n := by
  induction n with
  | zero => exact Nat.one_pos
  | succ n ih =>
    rw [fbBits, Nat.pow_succ]
    split <;> omega

/-- Bit `k` of the sum is the pixel it stands for: the powers added below bit `k` do not reach it, and those above leave it. -/
theorem testBit_fbBits (s : State) {n k : Nat} (hk : k < n) : (fbBits s n).testBit k = pixelOfBit s k := by
  induction n with
  | zero => exact absurd hk k.not_lt_zero
  | succ n ih =>
    have hhigh : (fbBits s n).testBit n = false := Nat.testBit_lt_two_pow (fbBits_lt s n)
    rw [fbBits, Nat.add_comm]
    obtain hlt | rfl := Nat.lt_succ_iff_lt_or_eq.1 hk
    · split
      · rw [Nat.testBit_two_pow_add_gt hlt, ih hlt]
      · rw [Nat.zero_add, ih hlt]
    · split
      · next hon => rw [Nat.testBit_two_pow_add_eq, hhigh, hon, Bool.not_false]
      · next hoff => rw [Nat.zero_add, hhigh, Bool.eq_false_of_not_eq_true hoff]

/-- R201: pixel `(x, y)` is bit `64 * y + x`. -/
theorem getLsbD_fbOut (s : State) (y : Fin 32) (x : Fin 64) :
    (fbOut s).getLsbD (64 * y.val + x.val) = s.fb[y][x] := by
  have hbit : 64 * y.val + x.val < 2048 := by omega
  have hcol : (64 * y.val + x.val) % 64 = x.val := by omega
  have hrow : (64 * y.val + x.val) / 64 = y.val := by omega
  rw [fbOut, BitVec.getLsbD_ofNat, decide_eq_true hbit, Bool.true_and, testBit_fbBits s hbit, pixelOfBit, hcol, hrow]
  exact s.fb.pixelAt_eq y x

/-- Settles O59: `tone_iff`, `getLsbD_fbOut`, and the codes fault by fault. -/
theorem outputsShowTheState : Obligations.OutputsShowTheState := by
  intro s
  refine ⟨tone_iff s, getLsbD_fbOut s, rfl, rfl, bne_iff_ne, ?_⟩
  rw [faultOut]
  cases s.fault with
  | none => rfl
  | some kind => cases kind <;> rfl

end Sys2Proof.Machine
end

section
/-! PROOFS. Exceptions (60_exceptions.md R236, R237): precise faults, and the block they halt. -/

namespace Sys2Proof.Machine

/-- R237: a halted block answers every transaction but `Reset` with itself. -/
theorem transact_halted {s : State} {t : Transaction} (hhalt : s.halted = true) (ht : t ≠ .reset) :
    transact exec t s = .next s := by
  cases t with
  | reset => exact absurd rfl ht
  | load bytes => exact loadProgram_halted hhalt bytes
  | step => exact cycle_halted hhalt
  | tick => exact congrArg Host.Outcome.next (tick_halted hhalt)
  | keyEvent k down => exact congrArg Host.Outcome.next (keyEvent_halted hhalt k down)
  | present => exact congrArg Host.Outcome.next (present_halted hhalt)

/-- Settles O10: taking a transaction off the list leaves the block halted, so `transact_halted` holds before and after it. -/
theorem haltedBlockIsFrozen : Obligations.HaltedBlockIsFrozen := by
  refine fun s t hhalt ht => ⟨transact_halted hhalt ht, fun hnone => ?_, fun rest hfirst => ?_⟩
  · exact (step_nil hnone).trans (cycle_halted hhalt)
  · have hstill : (s.dequeue rest).halted = true := hhalt
    exact (step_cons hfirst).trans (transact_halted hstill ht)

/-- Settles O12: by `exec_next` an instruction faults, which is the latch alone, or completes, which keeps the latch. -/
theorem faultingInstructionCommitsNothing : Obligations.FaultingInstructionCommitsNothing := by
  intro i s t ht
  obtain ⟨k, hfaults⟩ | hc := exec_next ht
  · exact .inr ⟨k, hfaults⟩
  · obtain ⟨hfault, hhalted, -⟩ := hc.keeps
    exact .inl ⟨hfault, hhalted⟩

end Sys2Proof.Machine
end

section
/-! PROOFS. `Load` (70_reset_and_hazards.md R274, R275): its four outcomes, that only a late one stops a step, and that a loaded
program runs from its first word (R276). -/

namespace Sys2Proof.Machine

section
variable {s : State} {bytes : List Byte}

/-! ### The outcomes of an unhalted block -/

theorem loadProgram_late (hrun : s.halted = false) (hclosed : s.loadOpen = false) :
    loadProgram bytes s = .fault .lateLoad := by
  simp [loadProgram, hrun, hclosed]

theorem loadProgram_tooLong (hrun : s.halted = false) (hopen : s.loadOpen = true) (hlong : maxProgram < bytes.length) :
    loadProgram bytes s = .next (s.closeLoad.latch .addressOutOfRange) := by
  rw [loadProgram, if_neg (by simp [hrun]), if_neg (by simp [hopen]), if_pos hlong, raise_eq]

/-- A program that fits is one block store at 0x200. -/
theorem loadProgram_fits (hrun : s.halted = false) (hopen : s.loadOpen = true) (hfits : bytes.length ≤ maxProgram) :
    ∃ t, s.closeLoad.storeBlock programBase bytes = some t ∧ loadProgram bytes s = .next t := by
  have hin : programBase + bytes.length ≤ memSize := Nat.add_le_add_left hfits programBase
  refine ⟨_, (State.storeBlock_eq ..).trans (if_pos (.inr hin)), ?_⟩
  rw [loadProgram, if_neg (by simp [hrun]), if_neg (by simp [hopen]), if_neg (not_lt.2 hfits)]
  rfl

/-- `Load` answers a next state but where it is late. -/
theorem loadProgram_answers (bytes : List Byte) (s : State) : (∃ t, loadProgram bytes s = .next t) ∨
    (loadProgram bytes s = .fault .lateLoad ∧ s.halted = false ∧ s.loadOpen = false) := by
  cases hhalt : s.halted with
  | true => exact .inl ⟨s, loadProgram_halted hhalt bytes⟩
  | false =>
    cases hwindow : s.loadOpen with
    | false => exact .inr ⟨loadProgram_late hhalt hwindow, rfl, rfl⟩
    | true =>
      obtain hlong | hfits := lt_or_ge maxProgram bytes.length
      · exact .inl ⟨_, loadProgram_tooLong hhalt hwindow hlong⟩
      · obtain ⟨t, -, ht⟩ := loadProgram_fits hhalt hwindow hfits
        exact .inl ⟨t, ht⟩

end

/-! ### What can stop a step -/

/-- A `Step` answers a next state whether it holds, faults at fetch or decode, or runs an instruction (`exec_answers`). -/
theorem cycle_answers (s : State) : ∃ t, cycle exec s = .next t := by
  cases hhalt : s.halted with
  | true => exact ⟨s, cycle_halted hhalt⟩
  | false =>
    cases hwait : s.wait with
    | key x => exact ⟨s, cycle_waiting hwait⟩
    | idle =>
      have hrun : s.running := ⟨hhalt, hwait⟩
      cases hfetch : s.fetch with
      | none => exact ⟨_, cycle_fetch_none hrun hfetch⟩
      | some op =>
        cases hop : decodeWord op with
        | error e => exact ⟨_, cycle_illegal hrun hfetch hop⟩
        | ok i =>
          obtain ⟨t, ht, -⟩ := exec_answers i s.closeLoad
          exact ⟨t, (cycle_decoded hrun hfetch hop).trans ht⟩

/-- A transaction answers a next state, or it is a late `Load`. -/
theorem transact_answers (tr : Transaction) (s : State) : (∃ t, transact exec tr s = .next t) ∨
    (transact exec tr s = .fault .lateLoad ∧ s.halted = false ∧ s.loadOpen = false ∧ ∃ bytes, tr = .load bytes) := by
  cases tr with
  | load bytes => exact (loadProgram_answers bytes s).imp_right fun ⟨hlate, hrun, hclosed⟩ => ⟨hlate, hrun, hclosed, bytes, rfl⟩
  | step => exact .inl (cycle_answers s)
  | reset | tick | keyEvent | present => exact .inl ⟨_, rfl⟩

/-- Settles O9: `exec_answers` for the instructions; a step is a `Step` (`cycle_answers`) or the first pending transaction
(`transact_answers`). -/
theorem onlyALateLoadStops : Obligations.OnlyALateLoadStops := by
  refine ⟨fun i s => ?_, fun s => ?_⟩
  · obtain ⟨t, ht, -⟩ := exec_answers i s
    exact ⟨t, ht⟩
  · cases hpending : s.pending with
    | nil =>
      rw [step_nil hpending]
      exact .inl (cycle_answers s)
    | cons tr rest =>
      rw [step_cons hpending]
      refine (transact_answers tr (s.dequeue rest)).imp_right ?_
      rintro ⟨hlate, hrun, hclosed, bytes, rfl⟩
      exact ⟨hlate, hrun, hclosed, bytes, rest, rfl⟩

/-- Settles O56: the four outcomes of `loadProgram`; what the block store of a program that fits leaves is
`State.storeBlock_bytes`. -/
theorem loadPlacesTheProgram : Obligations.LoadPlacesTheProgram := by
  intro s bytes
  refine ⟨fun hhalt => loadProgram_halted hhalt bytes, loadProgram_late, loadProgram_tooLong, fun hrun hopen hfits => ?_⟩
  obtain ⟨t, hstore, ht⟩ := loadProgram_fits hrun hopen hfits
  obtain ⟨hframe, hbytes⟩ := State.storeBlock_bytes hstore
  refine ⟨t, ht, fun j => ?_, fun a ha => ?_, hframe⟩
  · have hinside : programBase ≤ 0x200 + j.val ∧ 0x200 + j.val < programBase + bytes.length :=
      ⟨Nat.le_add_right _ _, Nat.add_lt_add_left j.isLt _⟩
    simp [hbytes, hinside]
  · have houtside : ¬(programBase ≤ a ∧ a < programBase + bytes.length) :=
      fun ⟨hle, hlt⟩ => ha.elim hle.not_gt hlt.not_ge
    rw [hbytes, dif_neg houtside, State.closeLoad_memRead]

/-- Settles O57: by O56 the first two bytes lie at 0x200, where `pc` is; the `Load` closed its own window, so the `Step` after it
runs the instruction at the very state the `Load` left. -/
theorem loadedProgramRunsFromItsFirstWord : Obligations.LoadedProgramRunsFromItsFirstWord := by
  intro b0 b1 rest i hfits hop
  obtain ⟨-, -, -, hplaced⟩ := loadPlacesTheProgram State.reset (b0 :: b1 :: rest)
  obtain ⟨t, hload, hbytes, -, hframe⟩ := hplaced rfl rfl hfits
  have hpc : t.pc = 0x200 := congrArg State.pc hframe
  have hrun : t.running := ⟨congrArg State.halted hframe, congrArg State.wait hframe⟩
  have hhi : t.memRead t.pc.toNat = some b0 := by rw [hpc]; exact hbytes ⟨0, Nat.succ_pos _⟩
  have hlo : t.memRead (t.pc.toNat + 1) = some b1 := by
    rw [hpc]; exact hbytes ⟨1, Nat.succ_lt_succ (Nat.succ_pos _)⟩
  have hclosed : t.closeLoad = t := by rw [hframe]; rfl
  refine ⟨t, (step_cons rfl).trans hload, hpc, ?_⟩
  rw [step_nil (congrArg State.pending hframe), cycle_decoded hrun (State.fetch_of_memRead hhi hlo) hop, hclosed]

end Sys2Proof.Machine
end

section
/-! PROOFS. `Reset` (70_reset_and_hazards.md R270): memory is the font and zeros for every choice of the parameters. -/

namespace Sys2Proof.Machine

theorem Memory.resetByte_font (c : Config) (j : Fin 80) : Memory.resetByte c (c.fontBase.val + j.val) = c.fontRom[j] := by
  simp [Memory.resetByte]

theorem Memory.resetByte_outside {c : Config} {a : Nat} (h : a < c.fontBase.val ∨ c.fontBase.val + 80 ≤ a) :
    Memory.resetByte c a = 0 := dif_neg (by omega)

/-- After a reset every byte of memory is its reset contents. -/
theorem memRead_resetBlock (s : State) {a : Nat} (h : a < memSize) :
    (resetBlock s).memRead a = some (Memory.resetByte s.cfg a) := if_pos h

/-- Settles O54: memory by `memRead_resetBlock`, the other pieces of state are those of the start state (O55) or of `s`. -/
theorem resetPutsEveryPieceOfState : Obligations.ResetPutsEveryPieceOfState := by
  obtain ⟨hpc, -, -, -, hregs, hi, hsp, hstack, hdt, hst, hfb, hdirty, hkeys, hwait, hfault, hhalted, -⟩ :=
    startStateIsTheResetState
  intro s
  refine ⟨resetBlock s, rfl, hregs, hi, hpc, hsp, hstack, hdt, hst, fun a => State.memRead_of_le, fun j => ?_,
    fun a hin houtside => ?_, hfb, hdirty, hkeys, hwait, hfault, hhalted, rfl, rfl, rfl, rfl⟩
  · have hin : s.cfg.fontBase.val + j.val < 4096 := by omega
    rw [memRead_resetBlock s hin, Memory.resetByte_font]
  · rw [memRead_resetBlock s hin, Memory.resetByte_outside houtside]

end Sys2Proof.Machine
end

section
/-! PROOFS. The requests of one clock (70_reset_and_hazards.md R282): their order, and a timer written in the clock of a `Tick`. -/

namespace Sys2Proof.Machine

section
variable {p : RequestPins}

theorem RequestPins.transactions_reset (h : p.rst = true) : p.transactions = [.reset] := if_pos h

/-- Without `rst`: each request that is up, in the order of R282. -/
theorem RequestPins.transactions_requests (h : p.rst = false) : p.transactions =
    (p.keyEvt.map fun e => Transaction.keyEvent e.1 e.2).toList ++ (if p.stepEn then [.step] else []) ++
      (if p.tick60 then [.tick] else []) ++ (if p.presentAck then [.present] else []) := by
  rw [RequestPins.transactions, h]
  cases p.keyEvt <;> rfl

theorem RequestPins.mem_transactions (h : p.rst = false) (tr : Transaction) : tr ∈ p.transactions ↔
    (∃ k d, p.keyEvt = some (k, d) ∧ tr = .keyEvent k d) ∨ (p.stepEn = true ∧ tr = .step) ∨
      (p.tick60 = true ∧ tr = .tick) ∨ (p.presentAck = true ∧ tr = .present) := by
  simp [RequestPins.transactions_requests h, eq_comm (a := tr)]

theorem sublist_singleton_of_request (up : Bool) (tr : Transaction) : (if up then [tr] else []).Sublist [tr] := by
  cases up with
  | false => exact List.nil_sublist _
  | true => exact List.Sublist.refl _

theorem RequestPins.transactions_sublist (h : p.rst = false) :
    ∃ k d, p.transactions.Sublist [.keyEvent k d, .step, .tick, .present] := by
  have hkey : ∃ k d, (p.keyEvt.map fun e => Transaction.keyEvent e.1 e.2).toList.Sublist [.keyEvent k d] := by
    cases p.keyEvt with
    | none => exact ⟨0, false, List.nil_sublist _⟩
    | some e => exact ⟨e.1, e.2, List.Sublist.refl _⟩
  obtain ⟨k, d, hkey⟩ := hkey
  refine ⟨k, d, ?_⟩
  rw [RequestPins.transactions_requests h]
  exact ((hkey.append (sublist_singleton_of_request p.stepEn .step)).append
    (sublist_singleton_of_request p.tick60 .tick)).append (sublist_singleton_of_request p.presentAck .present)

end

/-- A clock with a `Step` and a `Tick`: the timers counted down are those of the state `t` the `Step` leaves. -/
theorem run_clock_step_tick {s t : State} (hnone : s.pending = []) (hstep : cycle exec (s.dequeue [.tick]) = .next t)
    (hlist : t.pending = [.tick]) (hrun : t.halted = false) :
    Host.Core.run core 2 (s.clock ⟨false, none, true, true, false⟩) =
      .next { t with dt := countDown t.dt, st := countDown t.st, pending := [] } := by
  have hpending : (s.clock ⟨false, none, true, true, false⟩).pending = [.step, .tick] := by
    rw [State.clock, hnone]
    rfl
  have hfirst : core.step (s.clock ⟨false, none, true, true, false⟩) = .next t := (step_cons hpending).trans hstep
  have hsecond : core.step t = .next (tick (t.dequeue [])) := step_cons hlist
  rw [tick_unhalted (s := t.dequeue []) hrun] at hsecond
  exact (run_succ 1 hfirst).trans (run_succ 0 hsecond)

/-- Settles O58: the list by its four requests; FX15 leaves `DT` at the register's value, and the `Tick` after it counts that
down. -/
theorem requestsOfOneClockAreOrdered : Obligations.RequestsOfOneClockAreOrdered := by
  refine ⟨fun p => RequestPins.transactions_reset, fun p => RequestPins.mem_transactions, fun k d => rfl,
    fun p => RequestPins.transactions_sublist, fun s op x hrun hnone hfetch hop => ?_⟩
  have hstep : cycle exec (s.dequeue [.tick]) = .next ((s.dequeue [.tick]).closeLoad.setDt (s.reg x)).advance :=
    cycle_decoded (s := s.dequeue [.tick]) hrun hfetch hop
  obtain ⟨hunhalted, -⟩ := hrun
  exact ⟨_, run_clock_step_tick hnone hstep rfl hunhalted, toNat_countDown (s.reg x), rfl⟩

end Sys2Proof.Machine
end

section
/-! PROOFS. The causes of the faults at execution (60_exceptions.md R231 to R234): an instruction takes its fault where the cause
holds, and elsewhere leaves `halted` as it was. -/

namespace Sys2Proof.Machine

section
variable {i : Instr} {s t : State} {k kind : FaultKind}

theorem Raises.kind_unique (h : Raises i s k) (h' : Raises i s kind) : k = kind :=
  Option.some.inj (congrArg State.fault (Host.Outcome.next.inj (h.symm.trans h')))

/-- An instruction that leaves an unhalted block unhalted has taken no fault. -/
theorem not_raises_of_halted_eq (hrun : s.halted = false) (ht : exec i s = .next t) (hkeep : t.halted = s.halted) :
    ¬Raises i s k := by
  intro hfault
  have hhalt : t.halted = true := congrArg State.halted (Host.Outcome.next.inj (ht.symm.trans hfault))
  exact Bool.false_ne_true (hrun.symm.trans (hkeep.symm.trans hhalt))

/-- The shape of every row that can fault: one kind, taken where the cause holds. -/
theorem raises_iff {cause : Prop} (hrun : s.halted = false) (htaken : cause → Raises i s kind)
    (helse : ¬cause → ∃ t, exec i s = .next t ∧ t.halted = s.halted) : Raises i s k ↔ k = kind ∧ cause := by
  constructor
  · intro hfault
    have hcause : cause := by
      by_contra hno
      obtain ⟨t, ht, hkeep⟩ := helse hno
      exact not_raises_of_halted_eq hrun ht hkeep hfault
    exact ⟨hfault.kind_unique (htaken hcause), hcause⟩
  · rintro ⟨rfl, hcause⟩
    exact htaken hcause

variable {x : Nibble}

/-- FX33 with its three addresses inside memory (42_index_memory.md R173). -/
theorem exec_ldB_of_lt (h : s.dataAddr + 2 < memSize) : exec (.ldB x) s =
    .next { s with mem := Memory.writeAll s.cfg s.mem s.dataAddr (bcdDigits (s.reg x)) }.advance := by
  rw [exec, execLdB, State.storeBlock_eq, if_pos (.inr h), orRaise_some]

/-- FX55 with its addresses inside memory (42_index_memory.md R174). -/
theorem exec_ldMemVx_of_lt (h : s.dataAddr + x.toNat < memSize) : exec (.ldMemVx x) s =
    .next { s with mem := Memory.writeAll s.cfg s.mem s.dataAddr (s.regBlock x) }.advance := by
  have hin : s.dataAddr + (s.regBlock x).length ≤ memSize := by rw [State.length_regBlock]; omega
  rw [exec, execLdMemVx, State.storeBlock_eq, if_pos (.inr hin), orRaise_some]

end

/-- Settles O13: each row that can fault by `raises_iff`, from its equations on the two sides of its guard; every other row
completes with `halted` as it was. -/
theorem executionFaultCauses : Obligations.ExecutionFaultCauses := by
  intro i s k hrun
  cases i with
  | sys nnn =>
    refine raises_iff hrun exec_sys_of_fault fun hno => ⟨_, exec_sys_of_nop ?_, rfl⟩
    cases hpolicy : s.cfg.sysPolicy with
    | fault => exact absurd hpolicy hno
    | nop => rfl
  | ret =>
    exact raises_iff hrun (fun hempty => exec_ret_of_empty (Fin.ext hempty))
      fun hno => ⟨_, exec_ret_of_used (Nat.pos_of_ne_zero hno), rfl⟩
  | call nnn =>
    refine raises_iff hrun (fun hfull => exec_call_of_full (Fin.ext hfull)) fun hno => ⟨_, exec_call_of_free ?_, rfl⟩
    have hsp := s.sp.isLt
    omega
  | jpV0 nnn =>
    exact raises_iff hrun exec_jpV0_of_le fun hno => ⟨_, exec_jpV0_of_lt (not_le.1 hno), rfl⟩
  | drw x y n =>
    refine raises_iff hrun (fun ⟨hrows, hbeyond⟩ => (spriteReadIsChecked s x y n).1 hrows hbeyond)
      fun hno => ⟨_, exec_drw_of_fits ?_, rfl⟩
    change n.toNat = 0 ∨ s.i.toNat + n.toNat ≤ 4096
    omega
  | ldB x => exact raises_iff hrun exec_ldB_of_beyond fun hno => ⟨_, exec_ldB_of_lt (not_le.1 hno), rfl⟩
  | ldMemVx x => exact raises_iff hrun exec_ldMemVx_of_beyond fun hno => ⟨_, exec_ldMemVx_of_lt (not_le.1 hno), rfl⟩
  | ldVxMem x => exact raises_iff hrun exec_ldVxMem_of_beyond fun hno => ⟨_, exec_ldVxMem_of_lt (not_le.1 hno), rfl⟩
  | skp x =>
    exact raises_iff hrun exec_skp_of_le
      fun hno => ⟨_, exec_skp_of_key (n := ⟨_, not_le.1 hno⟩) rfl, State.skipIf_halted s _⟩
  | sknp x =>
    exact raises_iff hrun exec_sknp_of_le
      fun hno => ⟨_, exec_sknp_of_key (n := ⟨_, not_le.1 hno⟩) rfl, State.skipIf_halted s _⟩
  | _ => exact iff_of_false (not_raises_of_halted_eq hrun rfl (by simp)) id

end Sys2Proof.Machine
end
